-- ==== Sys2Proof/Word.lean ====
section
/-! DEFINITION. The widths of the block's values (rule R9) and the six buttons (rules R17, R18). -/

namespace Sys2Proof

/-- Reader-port data, a history register, a sequence number: 8 bits (rule R9). -/
abbrev Byte := BitVec 8

/-- The interface word: 16 bits (rule R63). -/
abbrev Word := BitVec 16

/-- A reader-port offset: 6 bits, so that no offset outside 0x00..0x3F exists (rules R9, R53, R66). -/
abbrev Offset := BitVec 6

/-- The raw levels of the six button lines, bit b for button b (rule R65). -/
abbrev RawLevels := BitVec 6

/-- The six buttons, in the source's own order (rule R17). -/
inductive Button where
  | dpadLeft | dpadRight | dpadUp | dpadDown | auxLeft | auxRight
deriving DecidableEq, Repr, Inhabited

/-- One value for each of the six buttons (rule R18: the count is fixed). -/
structure PerButton (α : Type) where
  dpadLeft  : α
  dpadRight : α
  dpadUp    : α
  dpadDown  : α
  auxLeft   : α
  auxRight  : α
deriving DecidableEq, Repr, Inhabited

end Sys2Proof
end

