-- ==== Sys2Proof/Syntax.lean ====
section
/-! DEFINITION. The operations of the block: one constructor per row of spec/opcode_table.json
(rules R68, R69, R79). -/

namespace Sys2Proof

/-- One operation of the block, carried by one 16-bit interface word. `r` is the RAW operand (rule R65), `a` the
ADDR operand (rule R66). A read row that covers one offset carries no operand; a reserved row that covers
several carries the offset, and `Instr.WellFormed` says which offsets are its own. -/
inductive Instr where
  /-- NOP (rule R116). -/
  | nop
  /-- TICK, one debounce-engine invocation (rule R80). -/
  | tick (r : RawLevels)
  /-- TICK.RD, a read and then a tick in one word (rule R117). -/
  | tickRd (r : RawLevels) (a : Offset)
  /-- RST, power-on reset (rule R142). -/
  | rst
  /-- RD.HIST0 (rule R99). -/
  | rdHist0
  /-- RD.HIST1 (rule R99). -/
  | rdHist1
  /-- RD.HIST2 (rule R99). -/
  | rdHist2
  /-- RD.HIST3 (rule R99). -/
  | rdHist3
  /-- RD.HIST4 (rule R99). -/
  | rdHist4
  /-- RD.HIST5 (rule R99). -/
  | rdHist5
  /-- RD.STATE (rule R100). -/
  | rdState
  /-- RD.COUNT_LO (rule R101). -/
  | rdCountLo
  /-- RD.COUNT_HI (rule R102). -/
  | rdCountHi
  /-- RD.IND (rule R103). -/
  | rdInd
  /-- RD.SNAP_SEQ, the latch (rule R107). -/
  | rdSnapSeq
  /-- RD.SNAP_STATE (rule R108). -/
  | rdSnapState
  /-- RD.SNAP_COUNT_LO (rule R109). -/
  | rdSnapCountLo
  /-- RD.SNAP_COUNT_HI (rule R110). -/
  | rdSnapCountHi
  /-- RD.RSVD at offsets 0x06 and 0x07 (rule R112). -/
  | rdRsvd0607 (a : Offset)
  /-- RD.RSVD at offset 0x09 (rule R112). -/
  | rdRsvd09
  /-- RD.RSVD at offset 0x0D (rule R112). -/
  | rdRsvd0D
  /-- RD.RSVD at offsets 0x0E and 0x0F (rule R112). -/
  | rdRsvd0E0F (a : Offset)
  /-- RD.RSVD at offsets 0x14..0x17 (rule R112). -/
  | rdRsvd1417 (a : Offset)
  /-- RD.RSVD at offsets 0x18..0x1F (rule R112). -/
  | rdRsvd181F (a : Offset)
  /-- RD.RSVD at offsets 0x20..0x3F (rule R112). -/
  | rdRsvd203F (a : Offset)
deriving DecidableEq, Repr

end Sys2Proof
end

