-- ==== Sys2Proof/Decode.lean ====
section
/-! DEFINITION. Decoding interface words (rules R63 to R75), the encoder, and the rows of
spec/opcode_table.json (rule R79). -/

namespace Sys2Proof

/-- Why a word carries no operation. -/
inductive DecodeError where
  /-- Bit 12 (RSV) is set: the word is reserved and refused (rule R70). Safe: nothing runs. -/
  | reservedBit12
deriving DecidableEq, Repr

/-! ### Fields of the word (rule R63) -/

/-- Bit 15, RST. -/
def rstBit (w : Word) : Bool := w.getLsbD 15
/-- Bit 14, TICK. -/
def tickBit (w : Word) : Bool := w.getLsbD 14
/-- Bit 13, RD. -/
def rdBit (w : Word) : Bool := w.getLsbD 13
/-- Bit 12, RSV. -/
def rsvBit (w : Word) : Bool := w.getLsbD 12
/-- Bits 11:6, ADDR (rule R66). -/
def addrField (w : Word) : Offset := w.extractLsb' 6 6
/-- Bits 5:0, RAW (rule R65). -/
def rawField (w : Word) : RawLevels := w.extractLsb' 0 6

/-- The bits of a word that its operation uses; the others are don't-care (rule R67). -/
def usedMask (w : Word) : Word :=
  if rstBit w then 0x9000#16
  else 0xF000#16 ||| (if rdBit w then 0x0FC0#16 else 0#16) ||| (if tickBit w then 0x003F#16 else 0#16)

/-! ### Decoding -/

/-- The read operation at an offset (rule R69). -/
def decodeRead (a : Offset) : Instr :=
  match a with
  | 0x00#6 => .rdHist0
  | 0x01#6 => .rdHist1
  | 0x02#6 => .rdHist2
  | 0x03#6 => .rdHist3
  | 0x04#6 => .rdHist4
  | 0x05#6 => .rdHist5
  | 0x06#6 => .rdRsvd0607 0x06#6
  | 0x07#6 => .rdRsvd0607 0x07#6
  | 0x08#6 => .rdState
  | 0x09#6 => .rdRsvd09
  | 0x0A#6 => .rdCountLo
  | 0x0B#6 => .rdCountHi
  | 0x0C#6 => .rdInd
  | 0x0D#6 => .rdRsvd0D
  | 0x0E#6 => .rdRsvd0E0F 0x0E#6
  | 0x0F#6 => .rdRsvd0E0F 0x0F#6
  | 0x10#6 => .rdSnapSeq
  | 0x11#6 => .rdSnapState
  | 0x12#6 => .rdSnapCountLo
  | 0x13#6 => .rdSnapCountHi
  | a => if a.toNat < 0x18 then .rdRsvd1417 a else if a.toNat < 0x20 then .rdRsvd181F a else .rdRsvd203F a

/-- Decoding, total on all 65536 words (rules R68, R75). -/
def decode (w : Word) : Except DecodeError Instr :=
  if rsvBit w then .error .reservedBit12
  else if rstBit w then .ok .rst
  else match tickBit w, rdBit w with
    | false, false => .ok .nop
    | true, false => .ok (.tick (rawField w))
    | false, true => .ok (decodeRead (addrField w))
    | true, true => .ok (.tickRd (rawField w) (addrField w))

/-- The word whose bits spec/opcode_table.json numbers `w`: the low `nbits` bits of `w`, all else 0. An interface
word is one 16-bit value on the block's input signals (rule R38), so no byte order enters (rule R51). -/
def tableWord (nbits w : Nat) : Word := BitVec.ofNat 16 (w % 2 ^ nbits)

/-- The operation the decoder reads from a row of the opcode table. -/
def decodeTableWord (nbits w : Nat) : Option Instr :=
  match decode (tableWord nbits w) with
  | .ok i => some i
  | .error _ => none

/-! ### Encoding -/

/-- ADDR in its place, bits 11:6. -/
def addrBits (a : Offset) : Word := (a.setWidth 16) <<< 6

/-- RAW in its place, bits 5:0. -/
def rawBits (r : RawLevels) : Word := r.setWidth 16

/-- The canonical word of an operation: the row's bits in spec/opcode_table.json and the operands, every don't-care
field 0 (rules R67, R74). -/
def encode : Instr → Word
  | .nop => 0x0000#16
  | .tick r => 0x4000#16 ||| rawBits r
  | .tickRd r a => 0x6000#16 ||| addrBits a ||| rawBits r
  | .rst => 0x8000#16
  | .rdHist0 => 0x2000#16
  | .rdHist1 => 0x2040#16
  | .rdHist2 => 0x2080#16
  | .rdHist3 => 0x20C0#16
  | .rdHist4 => 0x2100#16
  | .rdHist5 => 0x2140#16
  | .rdState => 0x2200#16
  | .rdCountLo => 0x2280#16
  | .rdCountHi => 0x22C0#16
  | .rdInd => 0x2300#16
  | .rdSnapSeq => 0x2400#16
  | .rdSnapState => 0x2440#16
  | .rdSnapCountLo => 0x2480#16
  | .rdSnapCountHi => 0x24C0#16
  | .rdRsvd0607 a => 0x2000#16 ||| addrBits a
  | .rdRsvd09 => 0x2240#16
  | .rdRsvd0D => 0x2340#16
  | .rdRsvd0E0F a => 0x2000#16 ||| addrBits a
  | .rdRsvd1417 a => 0x2000#16 ||| addrBits a
  | .rdRsvd181F a => 0x2000#16 ||| addrBits a
  | .rdRsvd203F a => 0x2000#16 ||| addrBits a

/-! ### The opcode table (rule R79) -/

/-- One row of spec/opcode_table.json: a word `w` selects it when `w &&& mask = bits` (rule R79). -/
structure OpRow where
  mnemonic : String
  bits     : Word
  mask     : Word
deriving DecidableEq, Repr

/-- A word selects a row (rule R79). -/
def OpRow.selectedBy (row : OpRow) (w : Word) : Bool := w &&& row.mask == row.bits

/-- The row of an operation. -/
def Instr.row : Instr → OpRow
  | .nop => ⟨"NOP", 0x0000#16, 0xF000#16⟩
  | .tick _ => ⟨"TICK", 0x4000#16, 0xF000#16⟩
  | .tickRd _ _ => ⟨"TICK.RD", 0x6000#16, 0xF000#16⟩
  | .rst => ⟨"RST", 0x8000#16, 0x9000#16⟩
  | .rdHist0 => ⟨"RD.HIST0", 0x2000#16, 0xFFC0#16⟩
  | .rdHist1 => ⟨"RD.HIST1", 0x2040#16, 0xFFC0#16⟩
  | .rdHist2 => ⟨"RD.HIST2", 0x2080#16, 0xFFC0#16⟩
  | .rdHist3 => ⟨"RD.HIST3", 0x20C0#16, 0xFFC0#16⟩
  | .rdHist4 => ⟨"RD.HIST4", 0x2100#16, 0xFFC0#16⟩
  | .rdHist5 => ⟨"RD.HIST5", 0x2140#16, 0xFFC0#16⟩
  | .rdState => ⟨"RD.STATE", 0x2200#16, 0xFFC0#16⟩
  | .rdCountLo => ⟨"RD.COUNT_LO", 0x2280#16, 0xFFC0#16⟩
  | .rdCountHi => ⟨"RD.COUNT_HI", 0x22C0#16, 0xFFC0#16⟩
  | .rdInd => ⟨"RD.IND", 0x2300#16, 0xFFC0#16⟩
  | .rdSnapSeq => ⟨"RD.SNAP_SEQ", 0x2400#16, 0xFFC0#16⟩
  | .rdSnapState => ⟨"RD.SNAP_STATE", 0x2440#16, 0xFFC0#16⟩
  | .rdSnapCountLo => ⟨"RD.SNAP_COUNT_LO", 0x2480#16, 0xFFC0#16⟩
  | .rdSnapCountHi => ⟨"RD.SNAP_COUNT_HI", 0x24C0#16, 0xFFC0#16⟩
  | .rdRsvd0607 _ => ⟨"RD.RSVD_06_07", 0x2180#16, 0xFF80#16⟩
  | .rdRsvd09 => ⟨"RD.RSVD_09", 0x2240#16, 0xFFC0#16⟩
  | .rdRsvd0D => ⟨"RD.RSVD_0D", 0x2340#16, 0xFFC0#16⟩
  | .rdRsvd0E0F _ => ⟨"RD.RSVD_0E_0F", 0x2380#16, 0xFF80#16⟩
  | .rdRsvd1417 _ => ⟨"RD.RSVD_14_17", 0x2500#16, 0xFF00#16⟩
  | .rdRsvd181F _ => ⟨"RD.RSVD_18_1F", 0x2600#16, 0xFE00#16⟩
  | .rdRsvd203F _ => ⟨"RD.RSVD_20_3F", 0x2800#16, 0xF800#16⟩

/-- All rows of the table, in its order. -/
def opcodeTable : List OpRow :=
  [ Instr.row .nop, Instr.row (.tick 0), Instr.row (.tickRd 0 0), Instr.row .rst,
    Instr.row .rdHist0, Instr.row .rdHist1, Instr.row .rdHist2, Instr.row .rdHist3, Instr.row .rdHist4,
    Instr.row .rdHist5, Instr.row .rdState, Instr.row .rdCountLo, Instr.row .rdCountHi, Instr.row .rdInd,
    Instr.row .rdSnapSeq, Instr.row .rdSnapState, Instr.row .rdSnapCountLo, Instr.row .rdSnapCountHi,
    Instr.row (.rdRsvd0607 0), Instr.row .rdRsvd09, Instr.row .rdRsvd0D, Instr.row (.rdRsvd0E0F 0),
    Instr.row (.rdRsvd1417 0), Instr.row (.rdRsvd181F 0), Instr.row (.rdRsvd203F 0) ]

end Sys2Proof
end

