-- ==== Sys2Proof/Config.lean ====
section
/-! DEFINITION. The parameters of an implementation (rule R6) and the values the spec leaves free.
What has no body here is open: no proof can see its value. -/

namespace Sys2Proof

/-- The wiring of one button line (rule R29): `activeHigh` is POL[b] = 0 (the line reads 1 when pressed),
`activeLow` is POL[b] = 1 (the line reads 0 when pressed). -/
inductive Polarity where
  | activeHigh | activeLow
deriving DecidableEq, Repr, Inhabited

/-- IND_MODE (rules R6, R24): one shared indicator pin, or two. -/
inductive IndMode where
  | shared | split
deriving DecidableEq, Repr, Inhabited

/-- The compile-time constants of one instance of the block (rule R7). -/
structure Params where
  /-- POL[0..5] (rule R29). -/
  pol     : PerButton Polarity
  /-- IND_MODE (rule R24). -/
  indMode : IndMode
deriving DecidableEq, Repr, Inhabited

/-- POL of the board at hand: an OPEN parameter (rules R6, R29, decision D3), so it has no body (log entry 1). -/
opaque Config.pol : PerButton Polarity

/-- IND_MODE of an instance that names none: SHARED, the decided default of rule R6 (decision D6, log entry 2). -/
def Config.indMode : IndMode := .shared

/-- The interface word the environment presents when State lists none: rule R115 lets it be any word
(log entry 3). The argument counts the words drawn so far. -/
opaque Config.envWord : Nat → Word

/-- TICK_PERIOD: an OPEN positive duration that no rule uses (rules R6, R160, log entry 4). -/
opaque Config.tickPeriod : ℕ+

/-- PORT_BASE: where a host CPU sees the reader port, OPEN and used by no rule (rule R55, log entry 4). -/
opaque Config.portBase : Nat

end Sys2Proof
end

