-- ==== Sys2Proof/Machine/State.lean ====
section
/-! DEFINITION. The machine's state as plain data, the reasons a step can stop, and the state after reset.
The block's own state is `eng` and `lat`, 132 bits in all (the tuple S of 10_state.md); the other fields of
`State` are the model's (the instance's parameters, the outputs of the last step, the observation, and the
environment's words). -/

namespace Sys2Proof.Machine

/-- ST[b] (rule R20). -/
inductive LogicalState where
  | up | down
deriving DecidableEq, Repr, Inhabited

/-- The three fields of PUB (rule R25) and of LAT (rule R26). -/
structure Snapshot where
  /-- SEQ, 8 bits: counts ticks modulo 256. -/
  seq   : Byte
  /-- STATE, 6 bits: bit b is ST[b]. -/
  state : BitVec 6
  /-- COUNT, 16 bits. -/
  count : BitVec 16
deriving DecidableEq, Repr, Inhabited

/-- What the Tick agent alone writes, RST apart (rule R35). -/
structure Engine where
  /-- HIST[0..5], 8 bits each, newest sample in bit 0 (rule R19). -/
  hist  : PerButton Byte
  /-- ST[0..5] (rule R20). -/
  st    : PerButton LogicalState
  /-- COUNT, the press counter (rule R22). -/
  count : BitVec 16
  /-- HB_LVL, the heartbeat level (rule R23). -/
  hbLvl : Bool
  /-- PR_LVL, the press indicator level (rule R24). -/
  prLvl : Bool
  /-- PUB, the published snapshot (rule R25). -/
  pub   : Snapshot
deriving DecidableEq, Repr, Inhabited

/-- The block's transient outputs in one step (rules R33, R38). -/
structure Outputs where
  /-- rdata[7:0]: the read data; 0x00 when the step reads nothing (rule R38). -/
  rdata     : Byte
  /-- press_ev[5:0] (rule R33). -/
  pressEv   : BitVec 6
  /-- release_ev[5:0] (rule R33). -/
  releaseEv : BitVec 6
  /-- hb_pulse (rule R33). -/
  hbPulse   : Bool
deriving DecidableEq, Repr, Inhabited

/-- One read as the Reader agent observes it: the offset and the byte returned (rule R104). -/
structure ReadObs where
  offset : Offset
  byte   : Byte
deriving DecidableEq, Repr, Inhabited

/-- The state of the machine. -/
structure State where
  /-- The engine's registers: HIST, ST, COUNT, HB_LVL, PR_LVL, PUB (rules R19 to R25). -/
  eng   : Engine
  /-- LAT, the reader-side latch (rule R26). -/
  lat   : Snapshot
  /-- The MODEL's: POL and IND_MODE of this instance (rules R6, R7); no operation changes them (log entries 1, 2). -/
  cfg   : Params
  /-- The MODEL's: the transient outputs of the last step (rule R33, log entry 5). -/
  out   : Outputs
  /-- The MODEL's: every read so far, oldest first (rule R104, log entry 6). -/
  reads : List ReadObs
  /-- The MODEL's: the interface words the environment will present next, in order (rule R115, log entry 3). -/
  input : List Word
  /-- The MODEL's: how many words were drawn from `Config.envWord` (log entry 3). -/
  draws : Nat
deriving DecidableEq, Repr, Inhabited

/-- Why the machine stops with a fault. There is no constructor: the block raises no exception, no fault and no
trap, and no operation has an error outcome (rule R122). Safe: no fault is invented, and none is left out. -/
inductive Fault where
deriving DecidableEq, Repr

/-- Why a step has no meaning in the model. -/
inductive Refusal where
  /-- Raised by an arm of `exec` whose operation has no meaning yet. No arm is refused in this model. Safe: the
  machine stops. -/
  | notModelled (mnemonic : String)
  /-- Raised by `step` on a word with bit 12 set: the model's refusal mark; no state of the block changes (rule
  R70). Safe: nothing can be proved of what follows. -/
  | reservedWord (w : Word)
deriving DecidableEq, Repr

/-- PUB and LAT at reset (rule R37). -/
def Snapshot.reset : Snapshot := { seq := 0x00#8, state := 0#6, count := 0x0000#16 }

/-- The engine's registers at reset (rule R37). -/
def Engine.reset : Engine where
  hist  := ⟨0x00#8, 0x00#8, 0x00#8, 0x00#8, 0x00#8, 0x00#8⟩
  st    := ⟨.up, .up, .up, .up, .up, .up⟩
  count := 0x0000#16
  hbLvl := false
  prLvl := false
  pub   := Snapshot.reset

/-- The outputs of a step that neither ticks nor reads (rules R33, R38). -/
def Outputs.idle : Outputs := { rdata := 0x00#8, pressEv := 0#6, releaseEv := 0#6, hbPulse := false }

/-- An instance with the parameters `cfg` right after power-on reset (rules R37, R142): nothing read yet, no word
listed yet. -/
def State.resetWith (cfg : Params) : State where
  eng   := Engine.reset
  lat   := Snapshot.reset
  cfg   := cfg
  out   := Outputs.idle
  reads := []
  input := []
  draws := 0

/-- The machine right after reset: POL is open, IND_MODE is its default (rules R6, R37, R142). -/
def State.reset : State := State.resetWith { pol := Config.pol, indMode := Config.indMode }

end Sys2Proof.Machine
end

