-- ==== Sys2Proof/Machine/Operands.lean ====
section
/-! DEFINITION. Reading a button's own element, and the operands of TICK: raw levels, polarity, samples. -/

namespace Sys2Proof

/-- The element of button b (rule R10: `HIST[b]`, `ST[b]`). -/
def PerButton.get {α : Type} (v : PerButton α) : Button → α
  | .dpadLeft => v.dpadLeft
  | .dpadRight => v.dpadRight
  | .dpadUp => v.dpadUp
  | .dpadDown => v.dpadDown
  | .auxLeft => v.auxLeft
  | .auxRight => v.auxRight

/-- The six elements `f b`, one for each button. -/
def PerButton.ofFn {α : Type} (f : Button → α) : PerButton α where
  dpadLeft  := f .dpadLeft
  dpadRight := f .dpadRight
  dpadUp    := f .dpadUp
  dpadDown  := f .dpadDown
  auxLeft   := f .auxLeft
  auxRight  := f .auxRight

/-- `v` with the element of button b replaced by `x` (rule R10: `x <- v` on one element). -/
def PerButton.set {α : Type} (v : PerButton α) (b : Button) (x : α) : PerButton α :=
  match b with
  | .dpadLeft => { v with dpadLeft := x }
  | .dpadRight => { v with dpadRight := x }
  | .dpadUp => { v with dpadUp := x }
  | .dpadDown => { v with dpadDown := x }
  | .auxLeft => { v with auxLeft := x }
  | .auxRight => { v with auxRight := x }

/-- POL[b] as a bit (rule R29). -/
def Polarity.bit : Polarity → Bool
  | .activeHigh => false
  | .activeLow => true

end Sys2Proof

namespace Sys2Proof.Machine

/-- The number b of a button (rule R17). -/
def buttonIndex : Button → Nat
  | .dpadLeft => 0
  | .dpadRight => 1
  | .dpadUp => 2
  | .dpadDown => 3
  | .auxLeft => 4
  | .auxRight => 5

/-- The six buttons in the order b = 0..5 (rule R17). -/
def allButtons : List Button := [.dpadLeft, .dpadRight, .dpadUp, .dpadDown, .auxLeft, .auxRight]

/-- The six bits `v[b]`, as the 6-bit value whose bit b is the element of button b (the shape of rule R28). -/
def packBits (v : PerButton Bool) : BitVec 6 :=
  BitVec.ofBool v.auxRight ++ BitVec.ofBool v.auxLeft ++ BitVec.ofBool v.dpadDown ++ BitVec.ofBool v.dpadUp
    ++ BitVec.ofBool v.dpadRight ++ BitVec.ofBool v.dpadLeft

/-- ST[b] as a bit: Up is 0, Down is 1 (rule R11). -/
def LogicalState.bit : LogicalState → Bool
  | .up => false
  | .down => true

/-- `raw[b] = r[b]` (rule R65). -/
def rawLevel (r : RawLevels) (b : Button) : Bool := r.getLsbD (buttonIndex b)

/-- The polarity-corrected sample of button b, 1 for pressed: `s = raw[b] ^ POL[b]` (rules R12, R82). -/
def sample (pol : PerButton Polarity) (r : RawLevels) (b : Button) : Bool :=
  Bool.xor (rawLevel r b) (pol.get b).bit

/-- POLMASK: bit b is POL[b]; as a raw word it says that every button is released (rule R77). -/
def polMask (pol : PerButton Polarity) : RawLevels :=
  packBits (PerButton.ofFn fun b => (pol.get b).bit)

end Sys2Proof.Machine
end

