-- ==== Sys2Proof/Machine/Flags.lean ====
section
/-! DEFINITION. The lane computations of TICK (rules R83 to R87), the event outputs, the packed views and the
indicator pins. -/

namespace Sys2Proof.Machine

/-- The history after a sample: the oldest sample is discarded and the new one enters bit 0 (rule R83). -/
def shiftIn (h : Byte) (s : Bool) : Byte := ((h <<< 1) &&& 0xFF#8) ||| (BitVec.ofBool s).setWidth 8

/-- The press test on the new history `h` and the state from before the tick (rules R84, R85). -/
def isPress (h : Byte) (st : LogicalState) : Bool := h == 0xFF#8 && st == .up

/-- The release test, made where the press test fails (rules R84, R86). -/
def isRelease (h : Byte) (st : LogicalState) : Bool := !isPress h st && (h == 0x00#8 && st == .down)

/-- ST[b] after the tick (rules R85, R86, R87). -/
def nextLogical (h : Byte) (st : LogicalState) : LogicalState :=
  if isPress h st then .down else if isRelease h st then .up else st

/-- pack(ST): bit b is ST[b] (rule R28). -/
def packStates (st : PerButton LogicalState) : BitVec 6 :=
  packBits (PerButton.ofFn fun b => (st.get b).bit)

/-- The number of 1 bits of a 6-bit value (rule R9). -/
def popcount6 (v : BitVec 6) : Nat := ((List.range 6).filter fun i => v.getLsbD i).length

/-- The byte at IND: bit 0 is HB_LVL, bit 1 is PR_LVL, bit 2 is their exclusive or, bits 7:3 are 0 (rule R103). -/
def indByte (hb pr : Bool) : Byte :=
  (BitVec.ofBool (Bool.xor hb pr) ++ BitVec.ofBool pr ++ BitVec.ofBool hb).setWidth 8

/-- The levels on the indicator pins: one pin or two, as IND_MODE says (rule R24). -/
inductive Pins where
  /-- `ind`. -/
  | shared (ind : Bool)
  /-- `hb_ind` and `pr_ind`. -/
  | split (hbInd prInd : Bool)
deriving DecidableEq, Repr

/-- The indicator outputs: `ind = HB_LVL ^ PR_LVL`, or `hb_ind = HB_LVL` and `pr_ind = PR_LVL` (rules R24, R38). -/
def indicatorPins (s : State) : Pins :=
  match s.cfg.indMode with
  | .shared => .shared (Bool.xor s.eng.hbLvl s.eng.prLvl)
  | .split => .split s.eng.hbLvl s.eng.prLvl

end Sys2Proof.Machine
end

