-- ==== Sys2Proof/Machine/Ops.lean ====
section
/-! DEFINITION. The shared operations: the tick of the engine, the reader port with its latch, what a whole
step does to the state, and taking the next interface word. The block takes no exception and returns from none (rule R122), has no
memory (rule R31) and no program counter (rule R32), so no operation for those stands here. A tick is the block's
only interrupt, and it is an input (rules R124, R129 to R131): entry and return save and change nothing of the
block, and its body is `tickEngine`. -/

namespace Sys2Proof.Machine

/-! ### The tick (rule R80) -/

/-- HIST after the tick (rules R82, R83). -/
def tickHist (pol : PerButton Polarity) (r : RawLevels) (e : Engine) : PerButton Byte :=
  PerButton.ofFn fun b => shiftIn (e.hist.get b) (sample pol r b)

/-- press_ev of the tick (rules R84, R85). -/
def tickPressEv (pol : PerButton Polarity) (r : RawLevels) (e : Engine) : BitVec 6 :=
  packBits (PerButton.ofFn fun b => isPress ((tickHist pol r e).get b) (e.st.get b))

/-- release_ev of the tick (rules R84, R86). -/
def tickReleaseEv (pol : PerButton Polarity) (r : RawLevels) (e : Engine) : BitVec 6 :=
  packBits (PerButton.ofFn fun b => isRelease ((tickHist pol r e).get b) (e.st.get b))

/-- ST after the tick (rules R84 to R87). -/
def tickSt (pol : PerButton Polarity) (r : RawLevels) (e : Engine) : PerButton LogicalState :=
  PerButton.ofFn fun b => nextLogical ((tickHist pol r e).get b) (e.st.get b)

/-- COUNT after the tick: the number of press events is added modulo 2^16 (rule R88). -/
def tickCount (pol : PerButton Polarity) (r : RawLevels) (e : Engine) : BitVec 16 :=
  e.count + BitVec.ofNat 16 (popcount6 (tickPressEv pol r e))

/-- PR_LVL after the tick: inverted when the number of press events is odd (rule R89). -/
def tickPrLvl (pol : PerButton Polarity) (r : RawLevels) (e : Engine) : Bool :=
  Bool.xor e.prLvl (popcount6 (tickPressEv pol r e) % 2 == 1)

/-- One debounce-engine invocation on the engine's registers: all six lanes, then the counter, the indicators and
the publication of PUB (rules R80, R81, R88 to R91). -/
def tickEngine (pol : PerButton Polarity) (r : RawLevels) (e : Engine) : Engine where
  hist  := tickHist pol r e
  st    := tickSt pol r e
  count := tickCount pol r e
  hbLvl := !e.hbLvl
  prLvl := tickPrLvl pol r e
  pub   := { seq := e.pub.seq + 1#8, state := packStates (tickSt pol r e), count := tickCount pol r e }

/-- The outputs of a step that ticks; `rdata` is what the same step reads, 0x00 if it reads nothing (rules R33,
R38). -/
def tickOutputs (rdata : Byte) (pol : PerButton Polarity) (r : RawLevels) (e : Engine) : Outputs where
  rdata     := rdata
  pressEv   := tickPressEv pol r e
  releaseEv := tickReleaseEv pol r e
  hbPulse   := true

/-! ### The reader port (rules R30, R114) -/

/-- LAT as a read of offset `a` leaves it: a read of SNAP_SEQ copies all of PUB (rules R107, R54). -/
def latchOn (a : Offset) (e : Engine) (l : Snapshot) : Snapshot := if a = 0x10#6 then e.pub else l

/-- The byte at offset `a`, LAT being what the read leaves it (rules R30, R51, R114). -/
def portByte (a : Offset) (e : Engine) (l : Snapshot) : Byte :=
  match a with
  | 0x00#6 => e.hist.dpadLeft
  | 0x01#6 => e.hist.dpadRight
  | 0x02#6 => e.hist.dpadUp
  | 0x03#6 => e.hist.dpadDown
  | 0x04#6 => e.hist.auxLeft
  | 0x05#6 => e.hist.auxRight
  | 0x08#6 => (packStates e.st).setWidth 8
  | 0x0A#6 => e.count.extractLsb' 0 8
  | 0x0B#6 => e.count.extractLsb' 8 8
  | 0x0C#6 => indByte e.hbLvl e.prLvl
  | 0x10#6 => l.seq
  | 0x11#6 => l.state.setWidth 8
  | 0x12#6 => l.count.extractLsb' 0 8
  | 0x13#6 => l.count.extractLsb' 8 8
  | _ => 0x00#8

/-- `PortRead(a)`: the byte returned, and LAT after the read (rule R114). -/
def portRead (a : Offset) (e : Engine) (l : Snapshot) : Byte × Snapshot :=
  (portByte a e (latchOn a e l), latchOn a e l)

/-! ### What a whole step does to the state -/

/-- A step that neither ticks nor reads nor resets: the outputs are idle and no state element is written (rule
R116). -/
def idleStep (s : State) : State := { s with out := Outputs.idle }

/-- A step that reads offset `a` and does not tick: the byte goes out on `rdata` and into the observation; LAT is
written when `a` is SNAP_SEQ's offset, and nothing else ever (rules R98, R104). -/
def readStep (a : Offset) (s : State) : State :=
  { s with
    lat := (portRead a s.eng s.lat).2
    out := { Outputs.idle with rdata := (portRead a s.eng s.lat).1 }
    reads := s.reads ++ [⟨a, (portRead a s.eng s.lat).1⟩] }

/-- A step that ticks and does not read: the engine's registers are written and LAT is not (rule R80). -/
def tickStep (r : RawLevels) (s : State) : State :=
  { s with
    eng := tickEngine s.cfg.pol r s.eng
    out := tickOutputs 0x00#8 s.cfg.pol r s.eng }

/-- A step that reads offset `a` and then ticks: the read sees the state from before the tick (rule R117). -/
def tickReadStep (r : RawLevels) (a : Offset) (s : State) : State :=
  { s with
    eng := tickEngine s.cfg.pol r s.eng
    lat := (portRead a s.eng s.lat).2
    out := tickOutputs (portRead a s.eng s.lat).1 s.cfg.pol r s.eng
    reads := s.reads ++ [⟨a, (portRead a s.eng s.lat).1⟩] }

/-- A power-on reset: every state element of the block takes its reset value, the outputs are idle, and POL and
IND_MODE are not affected (rules R118, R142). The reads already observed and the words still to come belong to the
agents outside and stay (log entry 6). -/
def resetStep (s : State) : State :=
  { s with eng := Engine.reset, lat := Snapshot.reset, out := Outputs.idle }

/-! ### The stream of interface words (rule R115) -/

/-- The environment will present `w` next. -/
def present (w : Word) (s : State) : State := { s with input := w :: s.input }

/-- Take the next interface word: the first one listed, or, where none is listed, whatever the environment presents
(rules R64, R115; log entry 3). -/
def fetch (s : State) : Word × State :=
  match s.input with
  | w :: ws => (w, { s with input := ws })
  | [] => (Config.envWord s.draws, { s with draws := s.draws + 1 })

end Sys2Proof.Machine
end

