-- ==== Sys2Proof/Machine/Cycle.lean ====
section
/-! DEFINITION. NOP (42_cycle.md) and RST (70_reset_and_hazards.md). -/

namespace Sys2Proof.Machine

/-- NOP: no state element is written (rule R116). -/
def execNop (s : State) : Host.Outcome State Fault Refusal := .next (idleStep s)

/-- RST: power-on reset (rule R142); the other fields of its word are ignored (rule R118). -/
def execRst (s : State) : Host.Outcome State Fault Refusal := .next (resetStep s)

end Sys2Proof.Machine
end

