-- ==== Sys2Proof/Machine/ReaderPort.lean ====
section
/-! DEFINITION. RD, the reader-port reads: one meaning per read mnemonic, each the step of rule R98 at its offset
(41_reader_port.md). -/

namespace Sys2Proof.Machine

/-- RD.HIST0: `rdata <- HIST[0]` (rule R99). -/
def execRdHist0 (s : State) : Host.Outcome State Fault Refusal := .next (readStep 0x00#6 s)

/-- RD.HIST1: `rdata <- HIST[1]` (rule R99). -/
def execRdHist1 (s : State) : Host.Outcome State Fault Refusal := .next (readStep 0x01#6 s)

/-- RD.HIST2: `rdata <- HIST[2]` (rule R99). -/
def execRdHist2 (s : State) : Host.Outcome State Fault Refusal := .next (readStep 0x02#6 s)

/-- RD.HIST3: `rdata <- HIST[3]` (rule R99). -/
def execRdHist3 (s : State) : Host.Outcome State Fault Refusal := .next (readStep 0x03#6 s)

/-- RD.HIST4: `rdata <- HIST[4]` (rule R99). -/
def execRdHist4 (s : State) : Host.Outcome State Fault Refusal := .next (readStep 0x04#6 s)

/-- RD.HIST5: `rdata <- HIST[5]` (rule R99). -/
def execRdHist5 (s : State) : Host.Outcome State Fault Refusal := .next (readStep 0x05#6 s)

/-- RD.STATE: `rdata <- pack8(ST)` (rule R100). -/
def execRdState (s : State) : Host.Outcome State Fault Refusal := .next (readStep 0x08#6 s)

/-- RD.COUNT_LO: `rdata <- COUNT[7:0]` (rule R101). -/
def execRdCountLo (s : State) : Host.Outcome State Fault Refusal := .next (readStep 0x0A#6 s)

/-- RD.COUNT_HI: `rdata <- COUNT[15:8]` (rule R102). -/
def execRdCountHi (s : State) : Host.Outcome State Fault Refusal := .next (readStep 0x0B#6 s)

/-- RD.IND: the indicator levels (rule R103). -/
def execRdInd (s : State) : Host.Outcome State Fault Refusal := .next (readStep 0x0C#6 s)

/-- RD.SNAP_SEQ: `LAT <- PUB`, then `rdata <- LAT.SEQ` (rule R107). -/
def execRdSnapSeq (s : State) : Host.Outcome State Fault Refusal := .next (readStep 0x10#6 s)

/-- RD.SNAP_STATE: `rdata <- zext_8(LAT.STATE)` (rule R108). -/
def execRdSnapState (s : State) : Host.Outcome State Fault Refusal := .next (readStep 0x11#6 s)

/-- RD.SNAP_COUNT_LO: `rdata <- LAT.COUNT[7:0]` (rule R109). -/
def execRdSnapCountLo (s : State) : Host.Outcome State Fault Refusal := .next (readStep 0x12#6 s)

/-- RD.SNAP_COUNT_HI: `rdata <- LAT.COUNT[15:8]` (rule R110). -/
def execRdSnapCountHi (s : State) : Host.Outcome State Fault Refusal := .next (readStep 0x13#6 s)

/-- RD.RSVD at 0x06, 0x07: `rdata <- 0x00` (rules R71, R112). -/
def execRdRsvd0607 (a : Offset) (s : State) : Host.Outcome State Fault Refusal := .next (readStep a s)

/-- RD.RSVD at 0x09: `rdata <- 0x00` (rules R71, R112). -/
def execRdRsvd09 (s : State) : Host.Outcome State Fault Refusal := .next (readStep 0x09#6 s)

/-- RD.RSVD at 0x0D: `rdata <- 0x00` (rules R71, R112). -/
def execRdRsvd0D (s : State) : Host.Outcome State Fault Refusal := .next (readStep 0x0D#6 s)

/-- RD.RSVD at 0x0E, 0x0F: `rdata <- 0x00` (rules R71, R112). -/
def execRdRsvd0E0F (a : Offset) (s : State) : Host.Outcome State Fault Refusal := .next (readStep a s)

/-- RD.RSVD at 0x14..0x17: `rdata <- 0x00` (rules R71, R112). -/
def execRdRsvd1417 (a : Offset) (s : State) : Host.Outcome State Fault Refusal := .next (readStep a s)

/-- RD.RSVD at 0x18..0x1F: `rdata <- 0x00` (rules R71, R112). -/
def execRdRsvd181F (a : Offset) (s : State) : Host.Outcome State Fault Refusal := .next (readStep a s)

/-- RD.RSVD at 0x20..0x3F: `rdata <- 0x00` (rules R71, R112). -/
def execRdRsvd203F (a : Offset) (s : State) : Host.Outcome State Fault Refusal := .next (readStep a s)

end Sys2Proof.Machine
end

