-- ==== Sys2Proof/Machine/Tick.lean ====
section
/-! DEFINITION. TICK, and TICK.RD, the two operations that tick (40_debounce_tick.md, 42_cycle.md). -/

namespace Sys2Proof.Machine

/-- TICK (rule R80). Every `r` and every state is accepted (rule R92). -/
def execTick (r : RawLevels) (s : State) : Host.Outcome State Fault Refusal := .next (tickStep r s)

/-- TICK.RD: the read, then the tick, in one step (rule R117). -/
def execTickRd (r : RawLevels) (a : Offset) (s : State) : Host.Outcome State Fault Refusal :=
  .next (tickReadStep r a s)

end Sys2Proof.Machine
end

