-- ==== Sys2Proof/Machine/Dispatch.lean ====
section
/-! DEFINITION. The meaning of every operation: one arm per constructor of `Instr`. -/

namespace Sys2Proof.Machine

def exec (i : Instr) (s : State) : Host.Outcome State Fault Refusal :=
  match i with
  | .nop => Sys2Proof.Machine.execNop s
  | .tick r => Sys2Proof.Machine.execTick r s
  | .tickRd r a => Sys2Proof.Machine.execTickRd r a s
  | .rst => Sys2Proof.Machine.execRst s
  | .rdHist0 => Sys2Proof.Machine.execRdHist0 s
  | .rdHist1 => Sys2Proof.Machine.execRdHist1 s
  | .rdHist2 => Sys2Proof.Machine.execRdHist2 s
  | .rdHist3 => Sys2Proof.Machine.execRdHist3 s
  | .rdHist4 => Sys2Proof.Machine.execRdHist4 s
  | .rdHist5 => Sys2Proof.Machine.execRdHist5 s
  | .rdState => Sys2Proof.Machine.execRdState s
  | .rdCountLo => Sys2Proof.Machine.execRdCountLo s
  | .rdCountHi => Sys2Proof.Machine.execRdCountHi s
  | .rdInd => Sys2Proof.Machine.execRdInd s
  | .rdSnapSeq => Sys2Proof.Machine.execRdSnapSeq s
  | .rdSnapState => Sys2Proof.Machine.execRdSnapState s
  | .rdSnapCountLo => Sys2Proof.Machine.execRdSnapCountLo s
  | .rdSnapCountHi => Sys2Proof.Machine.execRdSnapCountHi s
  | .rdRsvd0607 a => Sys2Proof.Machine.execRdRsvd0607 a s
  | .rdRsvd09 => Sys2Proof.Machine.execRdRsvd09 s
  | .rdRsvd0D => Sys2Proof.Machine.execRdRsvd0D s
  | .rdRsvd0E0F a => Sys2Proof.Machine.execRdRsvd0E0F a s
  | .rdRsvd1417 a => Sys2Proof.Machine.execRdRsvd1417 a s
  | .rdRsvd181F a => Sys2Proof.Machine.execRdRsvd181F a s
  | .rdRsvd203F a => Sys2Proof.Machine.execRdRsvd203F a s

end Sys2Proof.Machine
end

