-- ==== Sys2Proof/Machine/Step.lean ====
section
/-! DEFINITION. One step: the next interface word is taken, decoded and performed (rules R64, R115). -/

namespace Sys2Proof.Machine

/-- One step on one interface word. A reserved word is refused (rule R70); every other word is performed whole in
this one step (rules R45, R120). -/
def step (s : State) : Host.Outcome State Fault Refusal :=
  match decode (fetch s).1 with
  | .error .reservedBit12 => .refused (.reservedWord (fetch s).1)
  | .ok i => exec i (fetch s).2

/-- `s` with the word whose bits the opcode table numbers `w` as the next word the environment presents, before the
words already listed. Nothing else changes. -/
def State.withFetchWord (s : State) (nbits w : Nat) : State := present (tableWord nbits w) s

end Sys2Proof.Machine
end

