-- ==== Sys2Proof/Machine/Agents.lean ====
section
/-! DEFINITION. The agents, and whose step each operation is (rules R13, R115). -/

namespace Sys2Proof.Machine

/-- The two agents of the model and the environment that supplies reset (rule R13). -/
inductive Agent where
  /-- The Debounce Engine. -/
  | tick
  /-- The Render Loop. -/
  | reader
  /-- The host, which supplies power-on reset. -/
  | environment
deriving DecidableEq, Repr

/-- Whose step an operation is: a TICK.RD is a step of both agents, a NOP of nobody (rule R115). -/
def agentsOf : Instr → List Agent
  | .nop => []
  | .tick _ => [.tick]
  | .tickRd _ _ => [.tick, .reader]
  | .rst => [.environment]
  | .rdHist0 => [.reader]
  | .rdHist1 => [.reader]
  | .rdHist2 => [.reader]
  | .rdHist3 => [.reader]
  | .rdHist4 => [.reader]
  | .rdHist5 => [.reader]
  | .rdState => [.reader]
  | .rdCountLo => [.reader]
  | .rdCountHi => [.reader]
  | .rdInd => [.reader]
  | .rdSnapSeq => [.reader]
  | .rdSnapState => [.reader]
  | .rdSnapCountLo => [.reader]
  | .rdSnapCountHi => [.reader]
  | .rdRsvd0607 _ => [.reader]
  | .rdRsvd09 => [.reader]
  | .rdRsvd0D => [.reader]
  | .rdRsvd0E0F _ => [.reader]
  | .rdRsvd1417 _ => [.reader]
  | .rdRsvd181F _ => [.reader]
  | .rdRsvd203F _ => [.reader]

end Sys2Proof.Machine
end

