-- ==== Sys2Proof/Machine/Assembler.lean ====
section
/-! DEFINITION. The assembler's view of an operation: the canonical encodings of rule R74, the line syntax of rule
R76, the pseudo-instructions of rule R77 and printing (rule R78). No step of the machine depends on this file. -/

namespace Sys2Proof.Machine

/-- An operation as rules R74, R75 and R76 write it: a read names its offset, whatever row it selects. -/
inductive Operation where
  | nop
  | tick (r : RawLevels)
  | rd (a : Offset)
  | tickRd (r : RawLevels) (a : Offset)
  | rst
deriving DecidableEq, Repr

/-- The canonical encodings (rule R74). -/
def Operation.enc : Operation → Word
  | .nop => 0x0000#16
  | .tick r => 0x4000#16 ||| rawBits r
  | .rd a => 0x2000#16 ||| addrBits a
  | .tickRd r a => 0x6000#16 ||| addrBits a ||| rawBits r
  | .rst => 0x8000#16

/-- The operation as a row of the opcode table (rule R69). -/
def Operation.toInstr : Operation → Instr
  | .nop => .nop
  | .tick r => .tick r
  | .rd a => decodeRead a
  | .tickRd r a => .tickRd r a
  | .rst => .rst

/-- A row of the opcode table as an operation: its offset is its own (rule R69). -/
def Operation.ofInstr : Instr → Operation
  | .nop => .nop
  | .tick r => .tick r
  | .tickRd r a => .tickRd r a
  | .rst => .rst
  | .rdHist0 => .rd 0x00#6
  | .rdHist1 => .rd 0x01#6
  | .rdHist2 => .rd 0x02#6
  | .rdHist3 => .rd 0x03#6
  | .rdHist4 => .rd 0x04#6
  | .rdHist5 => .rd 0x05#6
  | .rdState => .rd 0x08#6
  | .rdCountLo => .rd 0x0A#6
  | .rdCountHi => .rd 0x0B#6
  | .rdInd => .rd 0x0C#6
  | .rdSnapSeq => .rd 0x10#6
  | .rdSnapState => .rd 0x11#6
  | .rdSnapCountLo => .rd 0x12#6
  | .rdSnapCountHi => .rd 0x13#6
  | .rdRsvd0607 a => .rd a
  | .rdRsvd09 => .rd 0x09#6
  | .rdRsvd0D => .rd 0x0D#6
  | .rdRsvd0E0F a => .rd a
  | .rdRsvd1417 a => .rd a
  | .rdRsvd181F a => .rd a
  | .rdRsvd203F a => .rd a

/-! ### Text (rules R76, R78) -/

/-- The names a line may use for an offset, with their offsets (rules R30, R76). -/
def portNames : List (Offset × List Char) :=
  [ (0x00#6, "HIST0".toList), (0x01#6, "HIST1".toList), (0x02#6, "HIST2".toList), (0x03#6, "HIST3".toList),
    (0x04#6, "HIST4".toList), (0x05#6, "HIST5".toList), (0x08#6, "STATE".toList), (0x0A#6, "COUNT_LO".toList),
    (0x0B#6, "COUNT_HI".toList), (0x0C#6, "IND".toList), (0x10#6, "SNAP_SEQ".toList),
    (0x11#6, "SNAP_STATE".toList), (0x12#6, "SNAP_COUNT_LO".toList), (0x13#6, "SNAP_COUNT_HI".toList) ]

/-- The sixteen hexadecimal digits (rule R8). -/
def hexDigits : List Char := "0123456789ABCDEF".toList

/-- A 6-bit value as `0bXXXXXX`, bit 5 first (rule R76). -/
def binaryText (r : BitVec 6) : List Char :=
  '0' :: 'b' :: [5, 4, 3, 2, 1, 0].map fun i => if r.getLsbD i then '1' else '0'

/-- A 6-bit value as `0xNN` (rule R76). -/
def hexText (a : BitVec 6) : List Char :=
  ['0', 'x', hexDigits.getD (a.toNat / 16) '0', hexDigits.getD (a.toNat % 16) '0']

/-- An offset as a line writes it: its name, or `0xNN` where it has none (rule R76). -/
def offsetText (a : Offset) : List Char := (portNames.lookup a).getD (hexText a)

/-- The line of an operation (rules R76, R78). -/
def Operation.text : Operation → List Char
  | .nop => "NOP".toList
  | .tick r => "TICK ".toList ++ binaryText r
  | .rd a => "RD ".toList ++ offsetText a
  | .tickRd r a => "TICK.RD ".toList ++ binaryText r ++ ", ".toList ++ offsetText a
  | .rst => "RST".toList

/-- Printing a word: its operation with the ignored fields dropped; nothing for a reserved word (rules R70, R78). -/
def printWord (w : Word) : Option (List Char) :=
  match decode w with
  | .ok i => some (Operation.ofInstr i).text
  | .error _ => none

/-- The value of a string of binary digits, the most significant first. -/
def binaryValue (v : Nat) : List Char → Option Nat
  | [] => some v
  | '0' :: cs => binaryValue (2 * v) cs
  | '1' :: cs => binaryValue (2 * v + 1) cs
  | _ :: _ => none

/-- The value of a string of hexadecimal digits, the most significant first. -/
def hexValue (v : Nat) : List Char → Option Nat
  | [] => some v
  | c :: cs =>
    match hexDigits.idxOf? c with
    | some d => hexValue (16 * v + d) cs
    | none => none

/-- A 6-bit number written `0xNN` (rule R76). -/
def parseHex (cs : List Char) : Option (BitVec 6) :=
  match cs with
  | ['0', 'x', c, d] => (hexValue 0 [c, d]).bind fun n => if n < 64 then some (BitVec.ofNat 6 n) else none
  | _ => none

/-- A raw operand: `0bXXXXXX` or `0xNN` (rule R76). -/
def parseRaw (cs : List Char) : Option RawLevels :=
  match cs with
  | ['0', 'b', b5, b4, b3, b2, b1, b0] => (binaryValue 0 [b5, b4, b3, b2, b1, b0]).map (BitVec.ofNat 6)
  | cs => parseHex cs

/-- An offset operand: a name or `0xNN` (rule R76). -/
def parseOffset (cs : List Char) : Option Offset :=
  match portNames.find? fun p => p.2 == cs with
  | some p => some p.1
  | none => parseHex cs

/-- The words of a line: blanks part them, and a comma is a word of its own. `acc` holds the word being read. -/
def lineWords (acc : List Char) : List Char → List (List Char)
  | [] => if acc.isEmpty then [] else [acc]
  | c :: cs =>
    if c == ' ' || c == '\t' then (if acc.isEmpty then lineWords [] cs else acc :: lineWords [] cs)
    else if c == ',' then (if acc.isEmpty then [','] :: lineWords [] cs else acc :: [','] :: lineWords [] cs)
    else lineWords (acc ++ [c]) cs

/-- What a line of the assembler holds (rule R76). -/
inductive AsmLine where
  /-- Nothing but blanks and a comment. -/
  | blank
  /-- One operation. -/
  | operation (o : Operation)
  /-- Not a line of the syntax. -/
  | illFormed
deriving DecidableEq, Repr

/-- An operation, or an ill-formed line where an operand does not parse. -/
def AsmLine.ofOption : Option Operation → AsmLine
  | some o => .operation o
  | none => .illFormed

/-- One line of the assembler; `;` starts a comment (rule R76). -/
def parseLine (line : List Char) : AsmLine :=
  match lineWords [] (line.takeWhile fun c => c != ';') with
  | [] => .blank
  | [m] =>
    if m == "NOP".toList then .operation .nop else if m == "RST".toList then .operation .rst else .illFormed
  | [m, x] =>
    if m == "TICK".toList then AsmLine.ofOption ((parseRaw x).map .tick)
    else if m == "RD".toList then AsmLine.ofOption ((parseOffset x).map .rd)
    else .illFormed
  | [m, x, c, y] =>
    if m == "TICK.RD".toList && c == [','] then
      AsmLine.ofOption ((parseRaw x).bind fun r => (parseOffset y).map fun a => .tickRd r a)
    else .illFormed
  | _ => .illFormed

/-! ### Pseudo-instructions (rule R77) -/

/-- The pseudo-instructions (rule R77). -/
inductive Pseudo where
  | tickN (n : Nat) (r : RawLevels)
  | idle (n : Nat)
  | hold (m : BitVec 6) (n : Nat)
  | rdSnap
  | rdCnt
  | rdCntDr
deriving DecidableEq, Repr

/-- The expansion of a pseudo-instruction on an instance whose polarities are `pol` (rule R77). RDCNT_DR expands to
one round; the host's software repeats it until the two COUNT_HI reads agree. -/
def Pseudo.expand (pol : PerButton Polarity) : Pseudo → List Operation
  | .tickN n r => List.replicate n (.tick r)
  | .idle n => List.replicate n (.tick (polMask pol))
  | .hold m n => List.replicate n (.tick (polMask pol ^^^ m))
  | .rdSnap => [.rd 0x10#6, .rd 0x11#6, .rd 0x12#6, .rd 0x13#6]
  | .rdCnt => [.rd 0x0A#6, .rd 0x0B#6]
  | .rdCntDr => [.rd 0x0B#6, .rd 0x0A#6, .rd 0x0B#6]

end Sys2Proof.Machine
end

