-- ==== Sys2Proof/Machine/TickLoop.lean ====
section
/-! DEFINITION. The pseudocode of rule R80 as it is written there, a loop over the buttons in some order; rule R81
says that the order does not matter. The machine runs `tickEngine`; this form is for statements about it. -/

namespace Sys2Proof.Machine

/-- What the loop of rule R80 carries from one button to the next. -/
structure TickLanes where
  hist      : PerButton Byte
  st        : PerButton LogicalState
  pressEv   : PerButton Bool
  releaseEv : PerButton Bool
deriving DecidableEq, Repr

/-- The body of the loop for button b (rule R80). -/
def tickLane (pol : PerButton Polarity) (r : RawLevels) (l : TickLanes) (b : Button) : TickLanes :=
  let h := ((l.hist.get b <<< 1) &&& 0xFF#8) ||| (BitVec.ofBool (Bool.xor (rawLevel r b) (pol.get b).bit)).setWidth 8
  if h = 0xFF#8 ∧ l.st.get b = .up then
    { l with hist := l.hist.set b h, st := l.st.set b .down, pressEv := l.pressEv.set b true }
  else if h = 0x00#8 ∧ l.st.get b = .down then
    { l with hist := l.hist.set b h, st := l.st.set b .up, releaseEv := l.releaseEv.set b true }
  else { l with hist := l.hist.set b h }

/-- The lanes after the loop has visited the buttons of `order`, one after the other. -/
def tickLanes (pol : PerButton Polarity) (r : RawLevels) (order : List Button) (e : Engine) : TickLanes :=
  order.foldl (tickLane pol r)
    { hist := e.hist, st := e.st, pressEv := PerButton.ofFn fun _ => false, releaseEv := PerButton.ofFn fun _ => false }

/-- The whole pseudocode of rule R80: the engine after it, `press_ev` and `release_ev`. -/
def tickLoop (pol : PerButton Polarity) (r : RawLevels) (order : List Button) (e : Engine) :
    Engine × BitVec 6 × BitVec 6 :=
  let l := tickLanes pol r order e
  let n := popcount6 (packBits l.pressEv)
  let count := BitVec.ofNat 16 ((e.count.toNat + n) % 2 ^ 16)
  ({ hist := l.hist, st := l.st, count := count, hbLvl := Bool.xor e.hbLvl true,
     prLvl := Bool.xor e.prLvl (n % 2 == 1),
     pub := { seq := BitVec.ofNat 8 ((e.pub.seq.toNat + 1) % 256), state := packStates l.st, count := count } },
   packBits l.pressEv, packBits l.releaseEv)

end Sys2Proof.Machine
end

