-- ==== Sys2Proof/WellFormed.lean ====
section
/-! DEFINITION. Which terms of `Instr` an interface word can carry: a reserved row holds only its own offsets. -/

namespace Sys2Proof

/-- `lo ≤ a ≤ hi`, as unsigned offsets (rule R66). -/
def offsetIn (lo hi : Nat) (a : Offset) : Bool := decide (lo ≤ a.toNat) && decide (a.toNat ≤ hi)

/-- The offset of a reserved read lies in its row of the opcode table (rules R69, R112); RAW and ADDR of the
other operations may hold any value (rules R65, R66). -/
def Instr.wf : Instr → Bool
  | .nop => true
  | .tick _ => true
  | .tickRd _ _ => true
  | .rst => true
  | .rdHist0 => true
  | .rdHist1 => true
  | .rdHist2 => true
  | .rdHist3 => true
  | .rdHist4 => true
  | .rdHist5 => true
  | .rdState => true
  | .rdCountLo => true
  | .rdCountHi => true
  | .rdInd => true
  | .rdSnapSeq => true
  | .rdSnapState => true
  | .rdSnapCountLo => true
  | .rdSnapCountHi => true
  | .rdRsvd0607 a => offsetIn 0x06 0x07 a
  | .rdRsvd09 => true
  | .rdRsvd0D => true
  | .rdRsvd0E0F a => offsetIn 0x0E 0x0F a
  | .rdRsvd1417 a => offsetIn 0x14 0x17 a
  | .rdRsvd181F a => offsetIn 0x18 0x1F a
  | .rdRsvd203F a => offsetIn 0x20 0x3F a

/-- The operation can be written in an interface word. -/
abbrev Instr.WellFormed (i : Instr) : Prop := i.wf = true

end Sys2Proof
end

