-- ==== Sys2Proof/Safety.lean ====
section
/-! DEFINITION. The terms the statements use: runs over interface words, what a word asks for, counts of events
along a run, and the invariants. There is no error state to avoid (rule R122): a safe run is one that keeps
`Coherent`, `Settled` and `LevelsCount`. -/

namespace Sys2Proof.Machine

/-! ### Runs (rules R46, R115) -/

/-- The environment presents the words of the list, one per step. -/
def runWords : List Word → State → Host.Outcome State Fault Refusal
  | [], s => .next s
  | w :: ws, s =>
    match step (present w s) with
    | .next t => runWords ws t
    | .fault f => .fault f
    | .refused f => .refused f

/-- The outputs of each step of that run, in order, up to a refusal. -/
def outputsOf : List Word → State → List Outputs
  | [], _ => []
  | w :: ws, s =>
    match step (present w s) with
    | .next t => t.out :: outputsOf ws t
    | .fault _ => []
    | .refused _ => []

/-! ### What a word asks for, read from its bits (rules R63, R68) -/

/-- The word resets the block. -/
def resets (w : Word) : Bool := !rsvBit w && rstBit w

/-- The raw levels of the word's tick, if it ticks. -/
def tickOf (w : Word) : Option RawLevels :=
  if !rsvBit w && !rstBit w && tickBit w then some (rawField w) else none

/-- The offset of the word's read, if it reads. -/
def readOf (w : Word) : Option Offset :=
  if !rsvBit w && !rstBit w && rdBit w then some (addrField w) else none

/-- The raw levels of the ticks among the words, in order. -/
def ticksOf (ws : List Word) : List RawLevels := ws.filterMap tickOf

/-- The samples of button b in the ticks among the words, in order (rule R82). -/
def samplesOf (pol : PerButton Polarity) (b : Button) (ws : List Word) : List Bool :=
  (ticksOf ws).map fun r => sample pol r b

/-- No word of the list is reserved (rule R70). -/
def Presentable (ws : List Word) : Prop := ∀ w ∈ ws, rsvBit w = false

/-- No word of the list resets the block. -/
def NoReset (ws : List Word) : Prop := ∀ w ∈ ws, resets w = false

/-- No word of the list reads SNAP_SEQ (rule R107). -/
def NoLatch (ws : List Word) : Prop := ∀ w ∈ ws, readOf w ≠ some 0x10#6

/-- The word without its read: RD becomes NOP, TICK.RD becomes TICK (rule R68). -/
def eraseRead (w : Word) : Word := w &&& 0xDFFF#16

/-! ### Counts along a run -/

/-- The number of press events of all buttons in the run (rule R97). -/
def pressTotal (ws : List Word) (s : State) : Nat := ((outputsOf ws s).map fun o => popcount6 o.pressEv).sum

/-- The number of press events of button b in the run (rule R96). -/
def pressesOf (b : Button) (ws : List Word) (s : State) : Nat :=
  ((outputsOf ws s).filter fun o => o.pressEv.getLsbD (buttonIndex b)).length

/-- The number a reader assembles from two bytes, `{hi, lo}` (rule R52). -/
def assemble (hi lo : Byte) : BitVec 16 := hi ++ lo

/-- `s` after a step that reads the byte `v` at offset `a`, does not tick and leaves LAT as it is: only the outputs
and the observation differ (rules R98, R104). -/
def afterRead (s : State) (a : Offset) (v : Byte) : State :=
  { s with
    out := { rdata := v, pressEv := 0#6, releaseEv := 0#6, hbPulse := false }
    reads := s.reads ++ [⟨a, v⟩] }

/-! ### Invariants -/

/-- PUB shows the live states and the live count (rule R27). -/
def Coherent (s : State) : Prop :=
  s.eng.pub.state = packStates s.eng.st ∧ s.eng.pub.count = s.eng.count

/-- An all-ones history stands only beside Down, an all-zeros history only beside Up (95_test_vectors.md 2.1: the
other states are unreachable). -/
def Settled (s : State) : Prop :=
  ∀ b : Button, (s.eng.hist.get b = 0xFF#8 → s.eng.st.get b = .down) ∧
    (s.eng.hist.get b = 0x00#8 → s.eng.st.get b = .up)

/-- HB_LVL is the parity of the ticks, PR_LVL the parity of the press events (rules R89, R90 with R88, R91). -/
def LevelsCount (s : State) : Prop :=
  s.eng.hbLvl = s.eng.pub.seq.getLsbD 0 ∧ s.eng.prLvl = s.eng.count.getLsbD 0

end Sys2Proof.Machine
end

