-- ==== Sys2Proof/Certificates/Slice0/Obligations.lean ====
section
/-! DEFINITION. The statements for the provers. A docstring says which rule of spec/ a statement formalises; OBLIGATIONS.json
lists the same statements with their citations. The registers of the spec are `eng` and `lat`; what a statement says of the other
fields of State is said of the model's own record of the parameters (log entries 1, 2), of the outputs of the last step (rule
R33, log entry 5), of the observation (rule R104, log entry 6) and of the words to come (rule R115, log entry 3). -/

open Sys2Proof Sys2Proof.Machine

/-- Derived from 30_encoding.md, 5. Encoding and decoding functions, 30_encoding.md, 3. The operation map: For every
well-formed operation i of all 25 rows, with every operand value, decode (encode i) is i. -/
def Obligations.DecodeInvertsEncode : Prop :=
  ∀ i : Instr, i.WellFormed → decode (encode i) = .ok i

/-- Derived from 30_encoding.md, 2. Operands, 30_encoding.md, 5. Encoding and decoding functions: For every word w that
decodes to i: i is well formed, and encode i is w with the don't-care bits of w (those outside usedMask w) set to 0. -/
def Obligations.EncodeOfDecodeDropsOnlyDontCareBits : Prop :=
  ∀ (w : Word) (i : Instr), decode w = .ok i → i.WellFormed ∧ encode i = w &&& usedMask w

/-- States rule R67 of spec/: Two words that agree in bits 12 and 15 and, when bit 15 is 0, in bits 14 and 13, in ADDR
if RD = 1 and in RAW if TICK = 1, decode alike. In the canonical word of a well-formed operation ADDR is 0 when RD =
0, RAW is 0 when TICK = 0, and when RST = 1 every other bit is 0. -/
def Obligations.DontCareFieldsAreIgnored : Prop :=
  (∀ w v : Word, w.getLsbD 12 = v.getLsbD 12 → w.getLsbD 15 = v.getLsbD 15 →
      (w.getLsbD 15 = false →
        w.getLsbD 14 = v.getLsbD 14 ∧ w.getLsbD 13 = v.getLsbD 13 ∧
        (w.getLsbD 13 = true → w.extractLsb' 6 6 = v.extractLsb' 6 6) ∧
        (w.getLsbD 14 = true → w.extractLsb' 0 6 = v.extractLsb' 0 6)) →
      decode w = decode v) ∧
    ∀ i : Instr, i.WellFormed →
      ((encode i).getLsbD 15 = false → (encode i).getLsbD 13 = false → (encode i).extractLsb' 6 6 = 0#6) ∧
      ((encode i).getLsbD 15 = false → (encode i).getLsbD 14 = false → (encode i).extractLsb' 0 6 = 0#6) ∧
      ((encode i).getLsbD 15 = true → encode i = 0x8000#16)

/-- States rule R68, R75 of spec/: For every word: bit 12 set is refused whatever else it holds; else bit 15 set is RST;
else bits 14 and 13 select NOP, TICK of bits 5:0, the read at bits 11:6, or TICK.RD of both. -/
def Obligations.DecodeFollowsTheOperationMap : Prop :=
  ∀ w : Word,
    (w.getLsbD 12 = true → decode w = .error .reservedBit12) ∧
    (w.getLsbD 12 = false → w.getLsbD 15 = true → decode w = .ok .rst) ∧
    (w.getLsbD 12 = false → w.getLsbD 15 = false →
      (w.getLsbD 14 = false → w.getLsbD 13 = false → decode w = .ok .nop) ∧
      (w.getLsbD 14 = true → w.getLsbD 13 = false → decode w = .ok (.tick (w.extractLsb' 0 6))) ∧
      (w.getLsbD 14 = false → w.getLsbD 13 = true →
        ∃ i, decode w = .ok i ∧ Operation.ofInstr i = .rd (w.extractLsb' 6 6)) ∧
      (w.getLsbD 14 = true → w.getLsbD 13 = true →
        decode w = .ok (.tickRd (w.extractLsb' 0 6) (w.extractLsb' 6 6))))

/-- Derived from 30_encoding.md, 3. The operation map, the table of read mnemonics: The named offsets select RD.HIST0 to
RD.HIST5, RD.STATE, RD.COUNT_LO, RD.COUNT_HI, RD.IND, RD.SNAP_SEQ, RD.SNAP_STATE, RD.SNAP_COUNT_LO and
RD.SNAP_COUNT_HI; 0x06, 0x07, 0x09, 0x0D to 0x0F and 0x14 to 0x3F select the reserved rows that hold them. -/
def Obligations.ReadMnemonicIsSelectedByOffset : Prop :=
  decodeRead 0x00#6 = .rdHist0 ∧ decodeRead 0x01#6 = .rdHist1 ∧ decodeRead 0x02#6 = .rdHist2 ∧
    decodeRead 0x03#6 = .rdHist3 ∧ decodeRead 0x04#6 = .rdHist4 ∧ decodeRead 0x05#6 = .rdHist5 ∧
    decodeRead 0x08#6 = .rdState ∧ decodeRead 0x0A#6 = .rdCountLo ∧ decodeRead 0x0B#6 = .rdCountHi ∧
    decodeRead 0x0C#6 = .rdInd ∧ decodeRead 0x10#6 = .rdSnapSeq ∧ decodeRead 0x11#6 = .rdSnapState ∧
    decodeRead 0x12#6 = .rdSnapCountLo ∧ decodeRead 0x13#6 = .rdSnapCountHi ∧
    decodeRead 0x09#6 = .rdRsvd09 ∧ decodeRead 0x0D#6 = .rdRsvd0D ∧
    ∀ a : Offset,
      (0x06 ≤ a.toNat → a.toNat ≤ 0x07 → decodeRead a = .rdRsvd0607 a) ∧
      (0x0E ≤ a.toNat → a.toNat ≤ 0x0F → decodeRead a = .rdRsvd0E0F a) ∧
      (0x14 ≤ a.toNat → a.toNat ≤ 0x17 → decodeRead a = .rdRsvd1417 a) ∧
      (0x18 ≤ a.toNat → a.toNat ≤ 0x1F → decodeRead a = .rdRsvd181F a) ∧
      (0x20 ≤ a.toNat → decodeRead a = .rdRsvd203F a)

/-- States rule R79 of spec/: The table holds 25 rows with 25 different mnemonics; each row's bits lie inside its mask;
no word selects two rows; a word selects no row exactly when its bit 12 is 1; and a decoded word selects the row of
its operation. -/
def Obligations.OpcodeRowsPartitionTheWords : Prop :=
  opcodeTable.length = 25 ∧ (opcodeTable.map OpRow.mnemonic).Nodup ∧
    (∀ row ∈ opcodeTable, row.bits &&& row.mask = row.bits) ∧
    (opcodeTable.Pairwise fun p q => ∀ w : Word, ¬(w &&& p.mask = p.bits ∧ w &&& q.mask = q.bits)) ∧
    (∀ w : Word, (∀ row ∈ opcodeTable, w &&& row.mask ≠ row.bits) ↔ w.getLsbD 12 = true) ∧
    ∀ (w : Word) (i : Instr), decode w = .ok i → i.row ∈ opcodeTable ∧ w &&& i.row.mask = i.row.bits

/-- Derived from 95_test_vectors.md, 3.3 Decoding: The words of the decoding table of 95_test_vectors.md 3.3 decode to
the operations listed there. -/
def Obligations.SampleWordsDecodeAsListed : Prop :=
  decode 0x0000#16 = .ok .nop ∧ decode 0x1000#16 = .error .reservedBit12 ∧
    decode 0x7000#16 = .error .reservedBit12 ∧ decode 0x9000#16 = .error .reservedBit12 ∧
    decode 0xFFFF#16 = .error .reservedBit12 ∧ decode 0x8000#16 = .ok .rst ∧ decode 0xEFFF#16 = .ok .rst ∧
    decode 0x4001#16 = .ok (.tick 0b000001#6) ∧ decode 0x4FC1#16 = .ok (.tick 0b000001#6) ∧
    decode 0x403F#16 = .ok (.tick 0b111111#6) ∧ decode 0x2400#16 = .ok .rdSnapSeq ∧
    decode 0x243F#16 = .ok .rdSnapSeq ∧ decode 0x2FC0#16 = .ok (.rdRsvd203F 0x3F#6) ∧
    decode 0x623F#16 = .ok (.tickRd 0b111111#6 0x08#6)

/-- States rule R74 of spec/: NOP is 0x0000, TICK r is 0x4000 or r, RD a is 0x2000 or a shifted left by 6, TICK.RD r, a
is 0x6000 or both, RST is 0x8000, for every r and a; and the three examples of the rule. -/
def Obligations.CanonicalEncodings : Prop :=
  encode .nop = 0x0000#16 ∧
    (∀ r : RawLevels, encode (.tick r) = 0x4000#16 ||| r.setWidth 16) ∧
    (∀ a : Offset, encode (decodeRead a) = 0x2000#16 ||| (a.setWidth 16 <<< 6)) ∧
    (∀ (r : RawLevels) (a : Offset),
      encode (.tickRd r a) = 0x6000#16 ||| (a.setWidth 16 <<< 6) ||| r.setWidth 16) ∧
    encode .rst = 0x8000#16 ∧
    encode .rdSnapSeq = 0x2400#16 ∧ encode (.tick 0b000001#6) = 0x4001#16 ∧
    encode (.tickRd 0b111111#6 0x08#6) = 0x623F#16

/-- States rule R78 of spec/: Every operation's line parses to that operation; a word that is not reserved prints as a
line that parses to an operation whose canonical word is the word with its don't-care fields 0; and 0x4FC1 prints as
TICK 0b000001 (details of the spelling are log entry 11). -/
def Obligations.PrintingInvertsAssembling : Prop :=
  (∀ o : Operation, parseLine o.text = .operation o) ∧
    (∀ w : Word, w.getLsbD 12 = false →
      ∃ (t : List Char) (o : Operation), printWord w = some t ∧ parseLine t = .operation o ∧
        o.enc = w &&& usedMask w) ∧
    printWord 0x4FC1#16 = some "TICK 0b000001".toList

/-- Derived from 30_encoding.md, 6. Assembler syntax, the table of pseudo-instructions: For every POL: the raw word
POLMASK gives every button the sample 0, and POLMASK with the bits of m flipped gives button b the sample m[b]; HOLD
m, n is n such ticks, IDLE n is n ticks of POLMASK, and RDSNAP, RDCNT and RDCNT_DR expand to the reads the table
lists (RDCNT_DR to one round, log entry 12). -/
def Obligations.PolarityMaskReleasesEveryButton : Prop :=
  ∀ (pol : PerButton Polarity) (m : BitVec 6) (b : Button) (n : Nat) (r : RawLevels),
    sample pol (polMask pol) b = false ∧
    sample pol (polMask pol ^^^ m) b = m.getLsbD (buttonIndex b) ∧
    (Pseudo.tickN n r).expand pol = List.replicate n (.tick r) ∧
    (Pseudo.idle n).expand pol = (Pseudo.tickN n (polMask pol)).expand pol ∧
    (Pseudo.hold m n).expand pol = (Pseudo.tickN n (polMask pol ^^^ m)).expand pol ∧
    (Pseudo.rdSnap.expand pol).map Operation.toInstr = [.rdSnapSeq, .rdSnapState, .rdSnapCountLo, .rdSnapCountHi] ∧
    (Pseudo.rdCnt.expand pol).map Operation.toInstr = [.rdCountLo, .rdCountHi] ∧
    (Pseudo.rdCntDr.expand pol).map Operation.toInstr = [.rdCountHi, .rdCountLo, .rdCountHi]

/-- Derived from 30_encoding.md, 1. The format, 42_cycle.md, a run of the block: Where a word w is listed first and
decodes to i, step is exec of i on the state without that word; where none is listed, step is the step in which the
environment presents its next free word, with one more word drawn (log entry 3: the free stream is the model's own). -/
def Obligations.StepRunsTheDecodedInstruction : Prop :=
  (∀ (s : State) (w : Word) (ws : List Word) (i : Instr), s.input = w :: ws → decode w = .ok i →
      step s = exec i { s with input := ws }) ∧
    ∀ s : State, s.input = [] →
      step s = step (present (Config.envWord s.draws) { s with draws := s.draws + 1 })

/-- States rule R70 of spec/: A step on any word with RSV = 1, whatever its other bits, is refused with the model's mark
for reserved words, which carries the word and no next state, so no state of the block changes (log entry 8). -/
def Obligations.ReservedWordIsRefused : Prop :=
  ∀ (s : State) (w : Word), w.getLsbD 12 = true → step (present w s) = .refused (.reservedWord w)

/-- States rule R122 of spec/: Every step from every state answers a next state, or refuses a word whose bit 12 is set;
the fault outcome does not occur, and the machine has no fault reason at all. -/
def Obligations.OnlyReservedWordsDoNotComplete : Prop :=
  (∀ s : State, (∃ t, step s = .next t) ∨
      ∃ w : Word, w.getLsbD 12 = true ∧ step s = .refused (.reservedWord w)) ∧
    (∀ (i : Instr) (s : State), ∃ t, exec i s = .next t) ∧ ¬∃ f : Fault, f = f

/-- Derived from 42_cycle.md, progress and no end of run: From every state, a run over any finite list of words with bit
12 clear answers a next state: the block never waits, never blocks and has no halt (the list of words is the model's
own, log entry 3). -/
def Obligations.PresentableRunsComplete : Prop :=
  ∀ (ws : List Word) (s : State), Presentable ws → ∃ t, runWords ws s = .next t

/-- Derived from 42_cycle.md, a run of the block: The machine run for as many steps as there are words, with the words
listed ahead of the input, answers what presenting them one at a time answers (the list of words is the model's own,
log entry 3). -/
def Obligations.RunWordsIsTheMachineRun : Prop :=
  ∀ (ws : List Word) (s : State),
    Host.Core.run Sys2Proof.core ws.length { s with input := ws ++ s.input } = runWords ws s

/-- States rule R83 of spec/: For TICK and TICK.RD, every raw operand, state and button: exec answers a next state in
which bit 0 of HIST[b] is raw[b] xor POL[b] and bit k+1 is the old bit k, for k = 0 to 6; the old bit 7 is gone. -/
def Obligations.TickShiftsTheSampleIn : Prop :=
  ∀ (i : Instr) (r : RawLevels) (a : Offset) (s : State), (i = .tick r ∨ i = .tickRd r a) →
    ∃ t, exec i s = .next t ∧ ∀ b : Button,
      (t.eng.hist.get b).getLsbD 0 = Bool.xor (r.getLsbD (buttonIndex b)) (decide (s.cfg.pol.get b = .activeLow)) ∧
      ∀ k < 7, (t.eng.hist.get b).getLsbD (k + 1) = (s.eng.hist.get b).getLsbD k

/-- States rule R84, R85, R86, R87 of spec/: For TICK and TICK.RD and every button, with h the history after the tick: h
= 0xFF from Up goes Down with a press event; h = 0x00 from Down goes Up with a release event; in every other case
the state stays and there is no event. Exactly one of the three applies. -/
def Obligations.TickFollowsTheTransitionTable : Prop :=
  ∀ (i : Instr) (r : RawLevels) (a : Offset) (s : State), (i = .tick r ∨ i = .tickRd r a) →
    ∃ t, exec i s = .next t ∧ ∀ b : Button,
      (if t.eng.hist.get b = 0xFF#8 ∧ s.eng.st.get b = .up then
        t.eng.st.get b = .down ∧ t.out.pressEv.getLsbD (buttonIndex b) = true ∧
          t.out.releaseEv.getLsbD (buttonIndex b) = false
      else if t.eng.hist.get b = 0x00#8 ∧ s.eng.st.get b = .down then
        t.eng.st.get b = .up ∧ t.out.pressEv.getLsbD (buttonIndex b) = false ∧
          t.out.releaseEv.getLsbD (buttonIndex b) = true
      else
        t.eng.st.get b = s.eng.st.get b ∧ t.out.pressEv.getLsbD (buttonIndex b) = false ∧
          t.out.releaseEv.getLsbD (buttonIndex b) = false)

/-- States rule R88 of spec/: For TICK and TICK.RD: COUNT after the tick is COUNT before plus the number of buttons with
a press event in this tick, modulo 2^16; that number is at most 6. -/
def Obligations.TickAddsThePressEvents : Prop :=
  ∀ (i : Instr) (r : RawLevels) (a : Offset) (s : State), (i = .tick r ∨ i = .tickRd r a) →
    ∃ t, exec i s = .next t ∧
      (allButtons.filter fun b => t.out.pressEv.getLsbD (buttonIndex b)).length ≤ 6 ∧
      t.eng.count.toNat =
        (s.eng.count.toNat + (allButtons.filter fun b => t.out.pressEv.getLsbD (buttonIndex b)).length) % 65536

/-- States rule R89 of spec/: For TICK and TICK.RD: PR_LVL is inverted exactly when the number of press events of the
tick is odd; and, whatever the buttons do, HB_LVL is inverted and hb_pulse is 1. -/
def Obligations.TickTogglesTheIndicatorLevels : Prop :=
  ∀ (i : Instr) (r : RawLevels) (a : Offset) (s : State), (i = .tick r ∨ i = .tickRd r a) →
    ∃ t, exec i s = .next t ∧ t.eng.hbLvl = !s.eng.hbLvl ∧ t.out.hbPulse = true ∧
      (t.eng.prLvl ≠ s.eng.prLvl ↔
        (allButtons.filter fun b => t.out.pressEv.getLsbD (buttonIndex b)).length % 2 = 1)

/-- States rule R91 of spec/: For TICK and TICK.RD: PUB.SEQ is one more modulo 256, bit b of PUB.STATE is ST[b] after
the tick, and PUB.COUNT is COUNT after the tick. -/
def Obligations.TickPublishesTheSnapshot : Prop :=
  ∀ (i : Instr) (r : RawLevels) (a : Offset) (s : State), (i = .tick r ∨ i = .tickRd r a) →
    ∃ t, exec i s = .next t ∧ t.eng.pub.seq.toNat = (s.eng.pub.seq.toNat + 1) % 256 ∧
      (∀ b : Button, t.eng.pub.state.getLsbD (buttonIndex b) = decide (t.eng.st.get b = .down)) ∧
      t.eng.pub.count = t.eng.count

/-- States rule R80 of spec/: For every raw operand and state, exec of TICK answers the state whose engine registers and
events are those of the pseudocode run over the buttons 0 to 5 in order, with hb_pulse 1 and rdata 0; LAT, the
parameters, the observation and the words to come are unchanged; the canonical word is 0x4000 or r. -/
def Obligations.TickFollowsThePseudocode : Prop :=
  ∀ (r : RawLevels) (s : State),
    exec (.tick r) s = .next { s with
      eng := (tickLoop s.cfg.pol r allButtons s.eng).1
      out := { rdata := 0x00#8
               pressEv := (tickLoop s.cfg.pol r allButtons s.eng).2.1
               releaseEv := (tickLoop s.cfg.pol r allButtons s.eng).2.2
               hbPulse := true } } ∧
    encode (.tick r) = 0x4000#16 ||| r.setWidth 16

/-- Derived from 40_debounce_tick.md, 1. The operation: the per-button loop runs over all six buttons in one TICK: For
every polarity, raw operand and engine state, and every ordering of the six buttons, the loop of the pseudocode
gives the engine registers, the press events and the release events of the machine's tick (the spec derives this in
R81). -/
def Obligations.TickIsIndependentOfTheLoopOrder : Prop :=
  ∀ (pol : PerButton Polarity) (r : RawLevels) (e : Engine) (order : List Button), order.Perm allButtons →
    tickLoop pol r order e = (tickEngine pol r e, tickPressEv pol r e, tickReleaseEv pol r e)

/-- Derived from 40_debounce_tick.md, 1. The operation: the buttons share no state inside the loop except the press
count: If two states and raw operands agree on button b (its history, its state, its polarity and its raw bit), then
after TICK they agree on button b's history, state and events, whatever the other buttons hold. -/
def Obligations.TickLanesAreIndependent : Prop :=
  ∀ (r q : RawLevels) (s u : State) (b : Button),
    s.eng.hist.get b = u.eng.hist.get b → s.eng.st.get b = u.eng.st.get b → s.cfg.pol.get b = u.cfg.pol.get b →
    r.getLsbD (buttonIndex b) = q.getLsbD (buttonIndex b) →
    ∃ t v, exec (.tick r) s = .next t ∧ exec (.tick q) u = .next v ∧
      t.eng.hist.get b = v.eng.hist.get b ∧ t.eng.st.get b = v.eng.st.get b ∧
      t.out.pressEv.getLsbD (buttonIndex b) = v.out.pressEv.getLsbD (buttonIndex b) ∧
      t.out.releaseEv.getLsbD (buttonIndex b) = v.out.releaseEv.getLsbD (buttonIndex b)

/-- States rule R117 of spec/: For every r, a and state, exec of TICK.RD answers a next state; the read RD a and then
TICK r, one after the other, leave the same state but for rdata, which is the read's byte, the port's byte before
the tick. With a = 0x10 the latch holds the old PUB, and LAT.SEQ is one less than the new PUB.SEQ modulo 256. The
canonical word is 0x6000 or a shifted by 6 or r. -/
def Obligations.TickRdIsReadThenTick : Prop :=
  ∀ (r : RawLevels) (a : Offset) (s : State), ∃ t u v,
    exec (.tickRd r a) s = .next t ∧ exec (decodeRead a) s = .next u ∧ exec (.tick r) u = .next v ∧
    t = { v with out := { v.out with rdata := u.out.rdata } } ∧
    t.out.rdata = (portRead a s.eng s.lat).1 ∧
    (a = 0x10#6 → t.lat = s.eng.pub ∧ t.lat.seq = t.eng.pub.seq - 1#8) ∧
    encode (.tickRd r a) = 0x6000#16 ||| (a.setWidth 16 <<< 6) ||| r.setWidth 16

/-- States rule R116 of spec/: exec of NOP, and a step on any word whose bits 15:12 are 0, answers the same state with
rdata, press_ev, release_ev and hb_pulse 0; the canonical word is 0x0000. -/
def Obligations.NopChangesNoStateElement : Prop :=
  ∀ s : State,
    exec .nop s = .next { s with out := { rdata := 0x00#8, pressEv := 0#6, releaseEv := 0#6, hbPulse := false } } ∧
    (∀ w : Word, w.extractLsb' 12 4 = 0#4 → step (present w s) = exec .nop s) ∧ encode .nop = 0x0000#16

/-- Derived from 70_reset_and_hazards.md, 1. Reset: RST, power-on reset, 10_state.md, 9. Reset values: exec of RST, and
a step on any word with bit 15 set and bit 12 clear, answers the state with every history 0x00, every button Up,
COUNT 0, both levels 0, PUB and LAT zero, and rdata, press_ev, release_ev and hb_pulse 0; the parameters POL and
IND_MODE, the observation and the words to come are unchanged. The reset values, the outputs and the parameters are
the spec's (R142). That the observation survives RST is the model's choice (log entry 6), and the words to come are
the model's own fields (log entry 3). -/
def Obligations.ResetClearsEveryElement : Prop :=
  ∀ s : State, ∃ t, exec .rst s = .next t ∧
      (∀ w : Word, w.getLsbD 15 = true → w.getLsbD 12 = false → step (present w s) = .next t) ∧
      (∀ b : Button, t.eng.hist.get b = 0x00#8 ∧ t.eng.st.get b = .up) ∧
      t.eng.count = 0x0000#16 ∧ t.eng.hbLvl = false ∧ t.eng.prLvl = false ∧
      t.eng.pub = { seq := 0x00#8, state := 0#6, count := 0x0000#16 } ∧
      t.lat = { seq := 0x00#8, state := 0#6, count := 0x0000#16 } ∧
      t.out = { rdata := 0x00#8, pressEv := 0#6, releaseEv := 0#6, hbPulse := false } ∧
      t.cfg = s.cfg ∧ t.reads = s.reads ∧ t.input = s.input ∧ t.draws = s.draws ∧ encode .rst = 0x8000#16

/-- Derived from 42_cycle.md, an RST word overrides the other fields of the same word: Any word with bit 15 set and bit
12 clear does what the canonical RST word does, whatever its TICK, RD, ADDR and RAW fields hold: nothing is read, no
tick is taken, and rdata is 0x00 (the spec's R118). That nothing is read is said of the observation, which stays as
it was; that RST leaves what was observed before it is the model's choice (log entry 6). -/
def Obligations.ResetOverridesTheRestOfTheWord : Prop :=
  ∀ (s : State) (w : Word), w.getLsbD 15 = true → w.getLsbD 12 = false →
    step (present w s) = step (present 0x8000#16 s) ∧
    ∃ t, step (present w s) = .next t ∧ t.reads = s.reads ∧ t.out.rdata = 0x00#8 ∧ t.out.hbPulse = false

/-- States rule R37 of spec/: The machine's reset state is the reset state of an instance; in it, for any parameters,
every history is 0x00, every button Up, COUNT 0, both levels 0, and PUB and LAT are zero in all three fields. -/
def Obligations.ResetValues : Prop :=
  (∃ cfg, Sys2Proof.core.reset = State.resetWith cfg) ∧
    ∀ cfg : Params,
      (∀ b : Button, (State.resetWith cfg).eng.hist.get b = 0x00#8 ∧ (State.resetWith cfg).eng.st.get b = .up) ∧
      (State.resetWith cfg).eng.count = 0x0000#16 ∧
      (State.resetWith cfg).eng.hbLvl = false ∧ (State.resetWith cfg).eng.prLvl = false ∧
      (State.resetWith cfg).eng.pub = { seq := 0x00#8, state := 0#6, count := 0x0000#16 } ∧
      (State.resetWith cfg).lat = { seq := 0x00#8, state := 0#6, count := 0x0000#16 }

/-- Derived from 95_test_vectors.md, 3.1 RD family: from reset, every RD returns 0x00, 10_state.md, 4. The reader port,
the column of reset values: For each of the 64 offsets, the read at that offset from the reset state of any instance
answers a next state whose rdata is 0x00 and whose LAT is still the reset value. -/
def Obligations.EveryPortReadIsZeroAtReset : Prop :=
  ∀ (a : Offset) (cfg : Params), ∃ t, exec (decodeRead a) (State.resetWith cfg) = .next t ∧
    t.out.rdata = 0x00#8 ∧ t.lat = { seq := 0x00#8, state := 0#6, count := 0x0000#16 }

/-- States rule R99 of spec/: For every state and each of the six histories: exec answers the state with rdata and a new
observation of HIST[b] at offset b, and nothing else changed; the canonical words are 0x2000, 0x2040, 0x2080,
0x20C0, 0x2100 and 0x2140. -/
def Obligations.ReadHistoryReturnsTheHistory : Prop :=
  ∀ s : State,
    exec .rdHist0 s = .next (afterRead s 0x00#6 (s.eng.hist.get .dpadLeft)) ∧
    exec .rdHist1 s = .next (afterRead s 0x01#6 (s.eng.hist.get .dpadRight)) ∧
    exec .rdHist2 s = .next (afterRead s 0x02#6 (s.eng.hist.get .dpadUp)) ∧
    exec .rdHist3 s = .next (afterRead s 0x03#6 (s.eng.hist.get .dpadDown)) ∧
    exec .rdHist4 s = .next (afterRead s 0x04#6 (s.eng.hist.get .auxLeft)) ∧
    exec .rdHist5 s = .next (afterRead s 0x05#6 (s.eng.hist.get .auxRight)) ∧
    [encode .rdHist0, encode .rdHist1, encode .rdHist2, encode .rdHist3, encode .rdHist4, encode .rdHist5] =
      [0x2000#16, 0x2040#16, 0x2080#16, 0x20C0#16, 0x2100#16, 0x2140#16]

/-- States rule R100 of spec/: For every state, exec of RD.STATE answers the state with rdata and a new observation of a
byte at 0x08 whose bit b is 1 exactly when button b is Down and whose bits 7:6 are 0; nothing else changes; the
canonical word is 0x2200. -/
def Obligations.ReadStatePacksTheStates : Prop :=
  ∀ s : State, ∃ v : Byte, exec .rdState s = .next (afterRead s 0x08#6 v) ∧
    (∀ b : Button, v.getLsbD (buttonIndex b) = decide (s.eng.st.get b = .down)) ∧
    v.getLsbD 6 = false ∧ v.getLsbD 7 = false ∧ encode .rdState = 0x2200#16

/-- States rule R101, R102 of spec/: For every state, exec of each answers the state with rdata and a new observation at
0x0A of COUNT modulo 256, at 0x0B of COUNT divided by 256, and nothing else changed; with no step between, the pair
assembles to COUNT; the canonical words are 0x2280 and 0x22C0. -/
def Obligations.ReadCountReturnsItsBytes : Prop :=
  ∀ s : State, ∃ lo hi : Byte,
    exec .rdCountLo s = .next (afterRead s 0x0A#6 lo) ∧ exec .rdCountHi s = .next (afterRead s 0x0B#6 hi) ∧
    lo.toNat = s.eng.count.toNat % 256 ∧ hi.toNat = s.eng.count.toNat / 256 ∧ assemble hi lo = s.eng.count ∧
    encode .rdCountLo = 0x2280#16 ∧ encode .rdCountHi = 0x22C0#16

/-- States rule R103 of spec/: For every state, exec of RD.IND answers the state with rdata and a new observation at
0x0C of a byte whose bit 0 is HB_LVL, bit 1 PR_LVL, bit 2 their exclusive or, and bits 7:3 are 0; nothing else
changes; the canonical word is 0x2300. -/
def Obligations.ReadIndicatorLevels : Prop :=
  ∀ s : State, ∃ v : Byte, exec .rdInd s = .next (afterRead s 0x0C#6 v) ∧
    v.getLsbD 0 = s.eng.hbLvl ∧ v.getLsbD 1 = s.eng.prLvl ∧ v.getLsbD 2 = Bool.xor s.eng.hbLvl s.eng.prLvl ∧
    (∀ k, 3 ≤ k → v.getLsbD k = false) ∧ encode .rdInd = 0x2300#16

/-- States rule R107 of spec/: For every state, exec of RD.SNAP_SEQ answers the state with LAT equal to PUB in all three
fields, with rdata and a new observation at 0x10 of PUB.SEQ, and nothing else changed. A second read returns the
same and leaves LAT the same. In TICK.RD at 0x10 the latch copies PUB as it was before the tick. The canonical word
is 0x2400. -/
def Obligations.ReadSnapSeqLatchesTheSnapshot : Prop :=
  ∀ (s : State) (r : RawLevels), ∃ t u v,
    exec .rdSnapSeq s = .next t ∧ t = { afterRead s 0x10#6 s.eng.pub.seq with lat := s.eng.pub } ∧
    exec .rdSnapSeq t = .next u ∧ u.lat = t.lat ∧ u.out.rdata = t.out.rdata ∧
    exec (.tickRd r 0x10#6) s = .next v ∧ v.lat = s.eng.pub ∧
    encode .rdSnapSeq = 0x2400#16

/-- States rule R108 of spec/: For every state, exec of RD.SNAP_STATE answers the state with rdata and a new observation
at 0x11 of a byte whose bits 5:0 are LAT.STATE and whose bits 7:6 are 0; nothing else changes; the canonical word is
0x2440. -/
def Obligations.ReadSnapStateReturnsTheLatchedStates : Prop :=
  ∀ s : State, ∃ v : Byte, exec .rdSnapState s = .next (afterRead s 0x11#6 v) ∧
    (∀ k < 6, v.getLsbD k = s.lat.state.getLsbD k) ∧ v.getLsbD 6 = false ∧ v.getLsbD 7 = false ∧
    encode .rdSnapState = 0x2440#16

/-- States rule R109, R110 of spec/: For every state, exec of each answers the state with rdata and a new observation at
0x12 of LAT.COUNT modulo 256, at 0x13 of LAT.COUNT divided by 256, and nothing else changed; the pair assembles to
LAT.COUNT; the canonical words are 0x2480 and 0x24C0. -/
def Obligations.ReadSnapCountReturnsItsBytes : Prop :=
  ∀ s : State, ∃ lo hi : Byte,
    exec .rdSnapCountLo s = .next (afterRead s 0x12#6 lo) ∧ exec .rdSnapCountHi s = .next (afterRead s 0x13#6 hi) ∧
    lo.toNat = s.lat.count.toNat % 256 ∧ hi.toNat = s.lat.count.toNat / 256 ∧ assemble hi lo = s.lat.count ∧
    encode .rdSnapCountLo = 0x2480#16 ∧ encode .rdSnapCountHi = 0x24C0#16

/-- States rule R112 of spec/: For every state and every offset of the seven reserved rows, exec answers the state with
rdata 0x00 and a new observation of 0x00 at that offset, and nothing else changed; the canonical word is 0x2000 or
the offset shifted left by 6. -/
def Obligations.ReservedOffsetsReadZero : Prop :=
  ∀ (s : State) (a : Offset),
    ((Instr.rdRsvd0607 a).WellFormed → exec (.rdRsvd0607 a) s = .next (afterRead s a 0x00#8)) ∧
    exec .rdRsvd09 s = .next (afterRead s 0x09#6 0x00#8) ∧
    exec .rdRsvd0D s = .next (afterRead s 0x0D#6 0x00#8) ∧
    ((Instr.rdRsvd0E0F a).WellFormed → exec (.rdRsvd0E0F a) s = .next (afterRead s a 0x00#8)) ∧
    ((Instr.rdRsvd1417 a).WellFormed → exec (.rdRsvd1417 a) s = .next (afterRead s a 0x00#8)) ∧
    ((Instr.rdRsvd181F a).WellFormed → exec (.rdRsvd181F a) s = .next (afterRead s a 0x00#8)) ∧
    ((Instr.rdRsvd203F a).WellFormed → exec (.rdRsvd203F a) s = .next (afterRead s a 0x00#8)) ∧
    encode (decodeRead a) = 0x2000#16 ||| (a.setWidth 16 <<< 6)

/-- States rule R98 of spec/: A step on any word with RD = 1 and RST = TICK = RSV = 0 answers a next state: rdata is the
port's byte at a = bits 11:6, the pair (a, rdata) is added to the observation (R104, log entry 6), no event output
is set, the engine registers are unchanged, and LAT is PUB when a = 0x10 and unchanged otherwise. -/
def Obligations.EveryReadWordReadsThePort : Prop :=
  ∀ (s : State) (w : Word), w.extractLsb' 12 4 = 0x2#4 →
    ∃ t, step (present w s) = .next t ∧
      t.out = { rdata := (portRead (w.extractLsb' 6 6) s.eng s.lat).1, pressEv := 0#6, releaseEv := 0#6, hbPulse := false } ∧
      t.reads = s.reads ++ [⟨w.extractLsb' 6 6, t.out.rdata⟩] ∧ t.eng = s.eng ∧
      (w.extractLsb' 6 6 = 0x10#6 → t.lat = s.eng.pub) ∧ (w.extractLsb' 6 6 ≠ 0x10#6 → t.lat = s.lat) ∧
      t.cfg = s.cfg ∧ t.input = s.input ∧ t.draws = s.draws

/-- Derived from 20_memory.md, 3. Alignment, widths, side effects: For every offset and state, the read answers a next
state, and so does the same read again: rdata, LAT and the engine registers are the same after the second as after
the first (with LAT already equal to PUB when the offset is 0x10). The spec derives this in R54. -/
def Obligations.RepeatedReadReturnsTheSame : Prop :=
  ∀ (a : Offset) (s : State), ∃ t u, exec (decodeRead a) s = .next t ∧ exec (decodeRead a) t = .next u ∧
    u.out = t.out ∧ u.lat = t.lat ∧ u.eng = t.eng ∧ (a = 0x10#6 → t.lat = t.eng.pub)

/-- Derived from 10_state.md, 2. Snapshot and latch: between any two operations, PUB.STATE = pack(ST) and PUB.COUNT =
COUNT hold: For every state in which PUB shows the live states and the live count, if step answers a next state then
PUB shows them there too. The spec derives this in R27. -/
def Obligations.StepKeepsThePublishedSnapshotCoherent : Prop :=
  ∀ s t : State, Coherent s → step s = .next t → Coherent t

/-- Derived from 95_test_vectors.md, 2.1 One button, one TICK: the rows marked unreachable: For every state in which a
history of 0xFF stands only beside Down and a history of 0x00 only beside Up, for all six buttons, if step answers a
next state then the same holds there. -/
def Obligations.StepKeepsHistoriesSettled : Prop :=
  ∀ s t : State, Settled s → step s = .next t → Settled t

/-- Derived from 40_debounce_tick.md, 2. Parts of the operation: press counter, press indicator, heartbeat, publish: For
every state in which HB_LVL is bit 0 of PUB.SEQ and PR_LVL is bit 0 of COUNT, if step answers a next state then the
same holds there: each level is toggled exactly as often as its counter steps, and both counters wrap at an even
number. -/
def Obligations.StepKeepsLevelsCountingParities : Prop :=
  ∀ s t : State, LevelsCount s → step s = .next t → LevelsCount t

/-- Derived from 10_state.md, 9. Reset values: In the reset state, for any parameters, PUB shows the live states and
count, every history is settled, and both levels are the parities of their counters; so they hold at the machine's
reset state. -/
def Obligations.ResetMeetsTheInvariants : Prop :=
  (∀ cfg : Params, Coherent (State.resetWith cfg) ∧ Settled (State.resetWith cfg) ∧ LevelsCount (State.resetWith cfg)) ∧
    Coherent State.reset ∧ Settled State.reset ∧ LevelsCount State.reset

/-- States rule R7 of spec/: From every state, if step answers a next state then its parameters are those of the state
before; and so after every run. -/
def Obligations.ParametersNeverChange : Prop :=
  (∀ s t : State, step s = .next t → t.cfg = s.cfg) ∧
    ∀ (ws : List Word) (s t : State), runWords ws s = .next t → t.cfg = s.cfg

/-- States rule R35 of spec/: For every well-formed operation and state, exec answers a next state; an operation that is
no step of the Tick agent and no RST leaves HIST, ST, COUNT, HB_LVL, PR_LVL and PUB unchanged; an operation that is
no RST and does not read SNAP_SEQ (alone or in TICK.RD) leaves LAT unchanged. -/
def Obligations.OnlyTheOwnerWrites : Prop :=
  ∀ (i : Instr) (s : State), i.WellFormed → ∃ t, exec i s = .next t ∧
    (Agent.tick ∉ agentsOf i → i ≠ .rst → t.eng = s.eng) ∧
    (i ≠ .rst → i ≠ .rdSnapSeq → (∀ r : RawLevels, i ≠ .tickRd r 0x10#6) → t.lat = s.lat)

/-- Derived from 10_state.md, 8. Ownership: no Reader operation writes any element the Tick agent reads or writes: A
step of the Reader agent alone leaves the engine registers unchanged, and a tick computes the same whatever LAT
holds. Take any run over any words from any state that completes. The run over the same words with every read erased
(RD made NOP, TICK.RD made TICK) also completes, with the same engine registers at the end and the same press,
release and heartbeat outputs in every step; so no reader activity can change the result of any tick (the spec's
R36). The erased run also leaves the observation as it was at its start; where its words include RST this rests on
the model's choice that RST leaves the observation (log entry 6). -/
def Obligations.ReadsNeverDisturbTheEngine : Prop :=
  (∀ (i : Instr) (s : State), agentsOf i = [.reader] → ∃ t, exec i s = .next t ∧ t.eng = s.eng) ∧
    (∀ (r : RawLevels) (s : State) (l : Snapshot), ∃ t u, exec (.tick r) s = .next t ∧
      exec (.tick r) { s with lat := l } = .next u ∧ u.eng = t.eng ∧ u.out = t.out) ∧
    ∀ (ws : List Word) (s t : State), runWords ws s = .next t →
    ∃ u, runWords (ws.map eraseRead) s = .next u ∧ u.eng = t.eng ∧ u.reads = s.reads ∧
      (outputsOf (ws.map eraseRead) s).map (fun o => (o.pressEv, o.releaseEv, o.hbPulse)) =
        (outputsOf ws s).map (fun o => (o.pressEv, o.releaseEv, o.hbPulse))

/-- Derived from 10_state.md, 1. Engine registers: the indicator outputs, 40_debounce_tick.md, 2. Parts of the
operation: the heartbeat, 70_reset_and_hazards.md, 1. Reset: the indicator outputs after RST: SHARED gives one pin
HB_LVL xor PR_LVL, SPLIT gives HB_LVL and PR_LVL; after reset every pin is 0; with SHARED, a TICK inverts the pin
when its number of press events is even and keeps its level when it is odd. -/
def Obligations.IndicatorPinsFollowTheMode : Prop :=
  (∀ s : State, (s.cfg.indMode = .shared → indicatorPins s = .shared (Bool.xor s.eng.hbLvl s.eng.prLvl)) ∧
      (s.cfg.indMode = .split → indicatorPins s = .split s.eng.hbLvl s.eng.prLvl)) ∧
    (∀ cfg : Params, indicatorPins (State.resetWith cfg) =
      if cfg.indMode = .shared then .shared false else .split false false) ∧
    ∀ (s : State) (r : RawLevels), s.cfg.indMode = .shared →
      ∃ t, exec (.tick r) s = .next t ∧ (indicatorPins t = indicatorPins s ↔ popcount6 t.out.pressEv % 2 = 1)

/-- Derived from 40_debounce_tick.md, 3. Derived properties: window: For every instance, every run from reset over words
without RST that completes, every button and k = 0 to 7: bit k of HIST[b] is the sample of button b in the tick k
ticks before the newest, and 0 where there were not so many ticks; reads and NOPs between the ticks do not matter.
The spec derives this in R93. -/
def Obligations.HistoryIsTheWindowOfSamples : Prop :=
  ∀ (cfg : Params) (ws : List Word) (t : State) (b : Button) (k : Nat), NoReset ws →
    runWords ws (State.resetWith cfg) = .next t → k < 8 →
    (t.eng.hist.get b).getLsbD k = (samplesOf cfg.pol b ws).reverse.getD k false

/-- Derived from 40_debounce_tick.md, 3. Derived properties: press needs eight: After any run from reset without RST, if
the next step takes button b from Up to Down then it ticked, at least eight ticks have run since reset, and the last
eight samples of button b were all 1; if it takes b from Down to Up, the last eight were all 0. The spec derives
this in R94. -/
def Obligations.TransitionsNeedEightEqualSamples : Prop :=
  ∀ (cfg : Params) (ws : List Word) (w : Word) (s t : State) (b : Button), NoReset (ws ++ [w]) →
    runWords ws (State.resetWith cfg) = .next s → step (present w s) = .next t →
    (s.eng.st.get b = .up → t.eng.st.get b = .down →
      (tickOf w).isSome ∧ 8 ≤ (samplesOf cfg.pol b (ws ++ [w])).length ∧
      ∀ k < 8, (samplesOf cfg.pol b (ws ++ [w])).reverse.getD k false = true) ∧
    (s.eng.st.get b = .down → t.eng.st.get b = .up →
      (tickOf w).isSome ∧ 8 ≤ (samplesOf cfg.pol b (ws ++ [w])).length ∧
      ∀ k < 8, (samplesOf cfg.pol b (ws ++ [w])).reverse.getD k true = false)

/-- Derived from 40_debounce_tick.md, 3. Derived properties: one press per hold: From every state, in any run without
RST in which every sample of button b is 1, however long, at most one press event of b takes place. The spec derives
this in R95. -/
def Obligations.OnePressPerHold : Prop :=
  ∀ (ws : List Word) (s t : State) (b : Button), NoReset ws → runWords ws s = .next t →
    (∀ x ∈ samplesOf s.cfg.pol b ws, x = true) → pressesOf b ws s ≤ 1

/-- Derived from 40_debounce_tick.md, 3. Derived properties: rate bound: From every state: after a step with a press
event of button b and any run without RST, if the next step has a press event of b then at least sixteen ticks ran
after the first, that one included; if it has a release event of b, at least eight. The spec derives this in R96. -/
def Obligations.PressEventsLieSixteenTicksApart : Prop :=
  ∀ (b : Button) (s0 s1 s2 s3 : State) (w0 w : Word) (ws : List Word), NoReset (ws ++ [w]) →
    step (present w0 s0) = .next s1 → s1.out.pressEv.getLsbD (buttonIndex b) = true →
    runWords ws s1 = .next s2 → step (present w s2) = .next s3 →
    (s3.out.pressEv.getLsbD (buttonIndex b) = true → 16 ≤ (ticksOf (ws ++ [w])).length) ∧
    (s3.out.releaseEv.getLsbD (buttonIndex b) = true → 8 ≤ (ticksOf (ws ++ [w])).length)

/-- Derived from 40_debounce_tick.md, 3. Derived properties: rate bound: For every instance and every run from reset
without RST that completes with N ticks: the press events of one button number at most (N + 8) / 16 rounded down (so
none for N below 8), and those of all six buttons at most 6 times that. The spec derives this in R96. -/
def Obligations.PressRateFromResetIsBounded : Prop :=
  ∀ (cfg : Params) (ws : List Word) (t : State), NoReset ws → runWords ws (State.resetWith cfg) = .next t →
    (∀ b : Button, pressesOf b ws (State.resetWith cfg) ≤ ((ticksOf ws).length + 8) / 16) ∧
    pressTotal ws (State.resetWith cfg) ≤ 6 * (((ticksOf ws).length + 8) / 16)

/-- Derived from 40_debounce_tick.md, 3. Derived properties: count, 10_state.md, 2. Snapshot and latch: PUB.SEQ equals
the number of TICK operations since the last RST, 70_reset_and_hazards.md, 3. Hazards software must respect: count
wrap: Over any run without RST from any state that completes, COUNT moves by the total number of press events of all
buttons modulo 2^16 (exactly that number when it is below 65536), and PUB.SEQ by the number of ticks modulo 256;
after a reset word, both are those numbers. The spec derives this in R97, R27 and R156. -/
def Obligations.CountersCountTheirEvents : Prop :=
  (∀ (ws : List Word) (s t : State), NoReset ws → runWords ws s = .next t →
      (t.eng.count - s.eng.count).toNat = pressTotal ws s % 65536 ∧
      (pressTotal ws s < 65536 → (t.eng.count - s.eng.count).toNat = pressTotal ws s) ∧
      (t.eng.pub.seq - s.eng.pub.seq).toNat = (ticksOf ws).length % 256) ∧
    ∀ (s t0 t : State) (w : Word) (ws : List Word), resets w = true → step (present w s) = .next t0 → NoReset ws →
      runWords ws t0 = .next t →
      t.eng.count.toNat = pressTotal ws t0 % 65536 ∧ t.eng.pub.seq.toNat = (ticksOf ws).length % 256

/-- Derived from 41_reader_port.md, 3. Snapshot view: freshness: Two SNAP_SEQ reads with any run without RST between
them: the difference of the bytes returned is the number of ticks in the run modulo 256, and exactly that number
when it is at most 255. The spec derives this in R106. -/
def Obligations.SequenceNumberCountsTicksBetweenLatches : Prop :=
  ∀ (s s1 s2 : State) (ws : List Word), NoReset ws → exec .rdSnapSeq s = .next s1 → runWords ws s1 = .next s2 →
    ∃ s3, exec .rdSnapSeq s2 = .next s3 ∧
      (s3.out.rdata - s1.out.rdata).toNat = (ticksOf ws).length % 256 ∧
      ((ticksOf ws).length ≤ 255 → (s3.out.rdata - s1.out.rdata).toNat = (ticksOf ws).length)

/-- Derived from 20_memory.md, 1. Atomicity and ordering of operations: the snapshot view, 41_reader_port.md, 3.
Snapshot view: the snapshot protocol: From any state whose PUB is coherent: after a SNAP_SEQ read and any run
without RST and without another SNAP_SEQ read, SNAP_STATE returns the packed states, and SNAP_COUNT_LO and
SNAP_COUNT_HI the bytes that assemble to the count, of the moment of the latch. The spec derives this in R50. -/
def Obligations.SnapshotHoldsUntilTheNextLatch : Prop :=
  ∀ (s s1 s2 : State) (ws : List Word), Coherent s → NoReset ws → NoLatch ws →
    exec .rdSnapSeq s = .next s1 → runWords ws s1 = .next s2 →
    ∃ u lo hi, exec .rdSnapState s2 = .next u ∧ exec .rdSnapCountLo s2 = .next lo ∧ exec .rdSnapCountHi s2 = .next hi ∧
      u.out.rdata = (packStates s.eng.st).setWidth 8 ∧ assemble hi.out.rdata lo.out.rdata = s.eng.count

/-- Derived from 41_reader_port.md, 3. Snapshot view: a read with no SNAP_SEQ read since the last RST: After a reset
word and any run without RST and without a SNAP_SEQ read, each of SNAP_STATE, SNAP_COUNT_LO and SNAP_COUNT_HI
returns 0x00. The spec derives this in R111. -/
def Obligations.SnapshotReadsZeroBeforeTheFirstLatch : Prop :=
  ∀ (s s1 s2 : State) (w : Word) (ws : List Word), resets w = true → step (present w s) = .next s1 →
    NoReset ws → NoLatch ws → runWords ws s1 = .next s2 →
    ∃ u lo hi, exec .rdSnapState s2 = .next u ∧ exec .rdSnapCountLo s2 = .next lo ∧ exec .rdSnapCountHi s2 = .next hi ∧
      u.out.rdata = 0x00#8 ∧ lo.out.rdata = 0x00#8 ∧ hi.out.rdata = 0x00#8

/-- Derived from 70_reset_and_hazards.md, 3. Hazards software must respect: torn live count: There are a state with
COUNT = 0x00FF and a tick that makes it 0x0100 such that COUNT_LO read before the tick and COUNT_HI read after it
assemble to 0x01FF, and COUNT_HI before with COUNT_LO after to 0x0000. -/
def Obligations.LiveCountPairMayTear : Prop :=
  ∃ (s t : State) (r : RawLevels), exec (.tick r) s = .next t ∧ s.eng.count = 0x00FF#16 ∧ t.eng.count = 0x0100#16 ∧
    (∃ s1 t1 u, exec .rdCountLo s = .next s1 ∧ exec (.tick r) s1 = .next t1 ∧ exec .rdCountHi t1 = .next u ∧
      assemble u.out.rdata s1.out.rdata = 0x01FF#16) ∧
    ∃ s1 t1 u, exec .rdCountHi s = .next s1 ∧ exec (.tick r) s1 = .next t1 ∧ exec .rdCountLo t1 = .next u ∧
      assemble s1.out.rdata u.out.rdata = 0x0000#16

/-- Derived from 70_reset_and_hazards.md, 3. Hazards software must respect: remedies, the double read: Read COUNT_HI,
then COUNT_LO, then COUNT_HI, with any runs without RST between: if the two high bytes agree and at most 65280 press
events took place between the two COUNT_HI reads, then the high byte and the low byte assemble to COUNT as it was
when the low byte was read. The spec derives this proviso in R151. -/
def Obligations.DoubleReadReturnsAHeldCount : Prop :=
  ∀ (s0 s1 s2 s3 s4 s5 : State) (ws vs : List Word), NoReset ws → NoReset vs →
    exec .rdCountHi s0 = .next s1 → runWords ws s1 = .next s2 → exec .rdCountLo s2 = .next s3 →
    runWords vs s3 = .next s4 → exec .rdCountHi s4 = .next s5 →
    pressTotal ws s1 + pressTotal vs s3 ≤ 65280 → s1.out.rdata = s5.out.rdata →
    assemble s1.out.rdata s3.out.rdata = s2.eng.count

/-- Derived from 70_reset_and_hazards.md, 3. Hazards software must respect: debounce window in time: From every state in
which the newest sample of button b agrees with ST[b] (1 with Down, 0 with Up): any run without RST with fewer than
eight ticks, whatever their samples, leaves ST[b] as it was. The spec derives this in R157. -/
def Obligations.ShortExcursionsChangeNothing : Prop :=
  ∀ (ws : List Word) (s t : State) (b : Button), NoReset ws → runWords ws s = .next t →
    (s.eng.hist.get b).getLsbD 0 = decide (s.eng.st.get b = .down) → (ticksOf ws).length < 8 →
    t.eng.st.get b = s.eng.st.get b

/-- Derived from 70_reset_and_hazards.md, 3. Hazards software must respect: debounce window in time, 42_cycle.md,
progress: In any run without RST in which every sample of button b is v: with at least eight ticks, ST[b] is Down at
the end if v = 1 and Up if v = 0, from every state; and if the line had just changed (the newest sample before was
not v and ST[b] was the other state), ST[b] changes at the eighth tick and not before. The spec derives this in
R157. -/
def Obligations.EightEqualSamplesSettleTheState : Prop :=
  ∀ (ws : List Word) (s t : State) (b : Button) (v : Bool), NoReset ws → runWords ws s = .next t →
    (∀ x ∈ samplesOf s.cfg.pol b ws, x = v) →
    (8 ≤ (ticksOf ws).length → t.eng.st.get b = if v then .down else .up) ∧
    ((s.eng.hist.get b).getLsbD 0 = !v → s.eng.st.get b = (if v then .up else .down) →
      (t.eng.st.get b = (if v then .down else .up) ↔ 8 ≤ (ticksOf ws).length))
end

