-- ==== Sys2Proof/Laws/State.lean ====
section
/-! SUPPORT. One lemma per field of State for each named update of it, and the elements of PerButton. -/

namespace Sys2Proof

/-! ### One value per button -/

@[simp] theorem PerButton.get_ofFn {α : Type} (f : Button → α) (b : Button) : (PerButton.ofFn f).get b = f b := by
  cases b <;> rfl

@[simp] theorem PerButton.get_set {α : Type} (v : PerButton α) (b c : Button) (x : α) :
    (v.set b x).get c = if c = b then x else v.get c := by
  cases b <;> cases c <;> rfl

theorem PerButton.ext_get {α : Type} {v w : PerButton α} (h : ∀ b, v.get b = w.get b) : v = w := by
  cases v; cases w
  have h0 := h .dpadLeft; have h1 := h .dpadRight; have h2 := h .dpadUp
  have h3 := h .dpadDown; have h4 := h .auxLeft; have h5 := h .auxRight
  simp only [PerButton.get] at h0 h1 h2 h3 h4 h5
  simp [h0, h1, h2, h3, h4, h5]

end Sys2Proof

namespace Sys2Proof.Machine

theorem buttonIndex_lt (b : Button) : buttonIndex b < 6 := by cases b <;> decide

theorem mem_allButtons (b : Button) : b ∈ allButtons := by cases b <;> decide

/-! ### `idleStep` -/

@[simp] theorem idleStep_eng (s : State) :
    (idleStep s).eng = s.eng := rfl
@[simp] theorem idleStep_lat (s : State) :
    (idleStep s).lat = s.lat := rfl
@[simp] theorem idleStep_cfg (s : State) :
    (idleStep s).cfg = s.cfg := rfl
@[simp] theorem idleStep_out (s : State) :
    (idleStep s).out = Outputs.idle := rfl
@[simp] theorem idleStep_reads (s : State) :
    (idleStep s).reads = s.reads := rfl
@[simp] theorem idleStep_input (s : State) :
    (idleStep s).input = s.input := rfl
@[simp] theorem idleStep_draws (s : State) :
    (idleStep s).draws = s.draws := rfl

/-! ### `readStep` -/

@[simp] theorem readStep_eng (a : Offset) (s : State) :
    (readStep a s).eng = s.eng := rfl
@[simp] theorem readStep_lat (a : Offset) (s : State) :
    (readStep a s).lat = (portRead a s.eng s.lat).2 := rfl
@[simp] theorem readStep_cfg (a : Offset) (s : State) :
    (readStep a s).cfg = s.cfg := rfl
@[simp] theorem readStep_out (a : Offset) (s : State) :
    (readStep a s).out = { Outputs.idle with rdata := (portRead a s.eng s.lat).1 } := rfl
@[simp] theorem readStep_reads (a : Offset) (s : State) :
    (readStep a s).reads = s.reads ++ [⟨a, (portRead a s.eng s.lat).1⟩] := rfl
@[simp] theorem readStep_input (a : Offset) (s : State) :
    (readStep a s).input = s.input := rfl
@[simp] theorem readStep_draws (a : Offset) (s : State) :
    (readStep a s).draws = s.draws := rfl

/-! ### `tickStep` -/

@[simp] theorem tickStep_eng (r : RawLevels) (s : State) :
    (tickStep r s).eng = tickEngine s.cfg.pol r s.eng := rfl
@[simp] theorem tickStep_lat (r : RawLevels) (s : State) :
    (tickStep r s).lat = s.lat := rfl
@[simp] theorem tickStep_cfg (r : RawLevels) (s : State) :
    (tickStep r s).cfg = s.cfg := rfl
@[simp] theorem tickStep_out (r : RawLevels) (s : State) :
    (tickStep r s).out = tickOutputs 0x00#8 s.cfg.pol r s.eng := rfl
@[simp] theorem tickStep_reads (r : RawLevels) (s : State) :
    (tickStep r s).reads = s.reads := rfl
@[simp] theorem tickStep_input (r : RawLevels) (s : State) :
    (tickStep r s).input = s.input := rfl
@[simp] theorem tickStep_draws (r : RawLevels) (s : State) :
    (tickStep r s).draws = s.draws := rfl

/-! ### `tickReadStep` -/

@[simp] theorem tickReadStep_eng (r : RawLevels) (a : Offset) (s : State) :
    (tickReadStep r a s).eng = tickEngine s.cfg.pol r s.eng := rfl
@[simp] theorem tickReadStep_lat (r : RawLevels) (a : Offset) (s : State) :
    (tickReadStep r a s).lat = (portRead a s.eng s.lat).2 := rfl
@[simp] theorem tickReadStep_cfg (r : RawLevels) (a : Offset) (s : State) :
    (tickReadStep r a s).cfg = s.cfg := rfl
@[simp] theorem tickReadStep_out (r : RawLevels) (a : Offset) (s : State) :
    (tickReadStep r a s).out = tickOutputs (portRead a s.eng s.lat).1 s.cfg.pol r s.eng := rfl
@[simp] theorem tickReadStep_reads (r : RawLevels) (a : Offset) (s : State) :
    (tickReadStep r a s).reads = s.reads ++ [⟨a, (portRead a s.eng s.lat).1⟩] := rfl
@[simp] theorem tickReadStep_input (r : RawLevels) (a : Offset) (s : State) :
    (tickReadStep r a s).input = s.input := rfl
@[simp] theorem tickReadStep_draws (r : RawLevels) (a : Offset) (s : State) :
    (tickReadStep r a s).draws = s.draws := rfl

/-! ### `resetStep` -/

@[simp] theorem resetStep_eng (s : State) :
    (resetStep s).eng = Engine.reset := rfl
@[simp] theorem resetStep_lat (s : State) :
    (resetStep s).lat = Snapshot.reset := rfl
@[simp] theorem resetStep_cfg (s : State) :
    (resetStep s).cfg = s.cfg := rfl
@[simp] theorem resetStep_out (s : State) :
    (resetStep s).out = Outputs.idle := rfl
@[simp] theorem resetStep_reads (s : State) :
    (resetStep s).reads = s.reads := rfl
@[simp] theorem resetStep_input (s : State) :
    (resetStep s).input = s.input := rfl
@[simp] theorem resetStep_draws (s : State) :
    (resetStep s).draws = s.draws := rfl

/-! ### `present` -/

@[simp] theorem present_eng (w : Word) (s : State) :
    (present w s).eng = s.eng := rfl
@[simp] theorem present_lat (w : Word) (s : State) :
    (present w s).lat = s.lat := rfl
@[simp] theorem present_cfg (w : Word) (s : State) :
    (present w s).cfg = s.cfg := rfl
@[simp] theorem present_out (w : Word) (s : State) :
    (present w s).out = s.out := rfl
@[simp] theorem present_reads (w : Word) (s : State) :
    (present w s).reads = s.reads := rfl
@[simp] theorem present_input (w : Word) (s : State) :
    (present w s).input = w :: s.input := rfl
@[simp] theorem present_draws (w : Word) (s : State) :
    (present w s).draws = s.draws := rfl

/-! ### `tickEngine` -/

variable (pol : PerButton Polarity) (r : RawLevels) (e : Engine)

@[simp] theorem tickEngine_hist : (tickEngine pol r e).hist = tickHist pol r e := rfl
@[simp] theorem tickEngine_st : (tickEngine pol r e).st = tickSt pol r e := rfl
@[simp] theorem tickEngine_count : (tickEngine pol r e).count = tickCount pol r e := rfl
@[simp] theorem tickEngine_hbLvl : (tickEngine pol r e).hbLvl = !e.hbLvl := rfl
@[simp] theorem tickEngine_prLvl : (tickEngine pol r e).prLvl = tickPrLvl pol r e := rfl
@[simp] theorem tickEngine_pub_seq : (tickEngine pol r e).pub.seq = e.pub.seq + 1#8 := rfl
@[simp] theorem tickEngine_pub_state : (tickEngine pol r e).pub.state = packStates (tickSt pol r e) := rfl
@[simp] theorem tickEngine_pub_count : (tickEngine pol r e).pub.count = tickCount pol r e := rfl

@[simp] theorem tickOutputs_rdata (v : Byte) : (tickOutputs v pol r e).rdata = v := rfl
@[simp] theorem tickOutputs_pressEv (v : Byte) : (tickOutputs v pol r e).pressEv = tickPressEv pol r e := rfl
@[simp] theorem tickOutputs_releaseEv (v : Byte) :
    (tickOutputs v pol r e).releaseEv = tickReleaseEv pol r e := rfl
@[simp] theorem tickOutputs_hbPulse (v : Byte) : (tickOutputs v pol r e).hbPulse = true := rfl

@[simp] theorem tickHist_get (b : Button) :
    (tickHist pol r e).get b = shiftIn (e.hist.get b) (sample pol r b) := by simp [tickHist]
@[simp] theorem tickSt_get (b : Button) :
    (tickSt pol r e).get b = nextLogical (shiftIn (e.hist.get b) (sample pol r b)) (e.st.get b) := by simp [tickSt]

/-! ### Reset values -/

@[simp] theorem reset_hist_get (b : Button) : Engine.reset.hist.get b = 0x00#8 := by cases b <;> rfl
@[simp] theorem reset_st_get (b : Button) : Engine.reset.st.get b = .up := by cases b <;> rfl
@[simp] theorem reset_count : Engine.reset.count = 0#16 := rfl
@[simp] theorem reset_hbLvl : Engine.reset.hbLvl = false := rfl
@[simp] theorem reset_prLvl : Engine.reset.prLvl = false := rfl
@[simp] theorem reset_pub : Engine.reset.pub = Snapshot.reset := rfl
@[simp] theorem snapshot_reset_seq : Snapshot.reset.seq = 0#8 := rfl
@[simp] theorem snapshot_reset_state : Snapshot.reset.state = 0#6 := rfl
@[simp] theorem snapshot_reset_count : Snapshot.reset.count = 0#16 := rfl

@[simp] theorem resetWith_eng (cfg : Params) : (State.resetWith cfg).eng = Engine.reset := rfl
@[simp] theorem resetWith_lat (cfg : Params) : (State.resetWith cfg).lat = Snapshot.reset := rfl
@[simp] theorem resetWith_cfg (cfg : Params) : (State.resetWith cfg).cfg = cfg := rfl
@[simp] theorem resetWith_out (cfg : Params) : (State.resetWith cfg).out = Outputs.idle := rfl
@[simp] theorem resetWith_reads (cfg : Params) : (State.resetWith cfg).reads = [] := rfl
@[simp] theorem resetWith_input (cfg : Params) : (State.resetWith cfg).input = [] := rfl
@[simp] theorem resetWith_draws (cfg : Params) : (State.resetWith cfg).draws = 0 := rfl

/-! ### The outputs of a step that does not tick -/

@[simp] theorem idle_rdata : Outputs.idle.rdata = 0#8 := rfl
@[simp] theorem idle_pressEv : Outputs.idle.pressEv = 0#6 := rfl
@[simp] theorem idle_releaseEv : Outputs.idle.releaseEv = 0#6 := rfl
@[simp] theorem idle_hbPulse : Outputs.idle.hbPulse = false := rfl

end Sys2Proof.Machine
end

