-- ==== Sys2Proof/Laws/Ops.lean ====
section
/-! SUPPORT. What each shared operation can do, said once: fields and packing, the lane functions, the reader port,
taking a word, and the effect of every operation. -/

namespace Sys2Proof.Machine

/-! ### Packing and counting -/

@[simp] theorem packBits_getLsbD (v : PerButton Bool) (b : Button) :
    (packBits v).getLsbD (buttonIndex b) = v.get b := by
  obtain ⟨a0, a1, a2, a3, a4, a5⟩ := v
  cases b <;> cases a0 <;> cases a1 <;> cases a2 <;> cases a3 <;> cases a4 <;> cases a5 <;> decide

theorem packStates_getLsbD (st : PerButton LogicalState) (b : Button) :
    (packStates st).getLsbD (buttonIndex b) = (st.get b).bit := by simp [packStates]

theorem popcount6_le (v : BitVec 6) : popcount6 v ≤ 6 := by
  simpa [popcount6] using List.length_filter_le (fun i => v.getLsbD i) (List.range 6)

/-- The number of 1 bits is the number of buttons whose bit is 1. -/
theorem popcount6_eq_buttons (v : BitVec 6) :
    popcount6 v = (allButtons.filter fun b => v.getLsbD (buttonIndex b)).length := by
  simp only [popcount6, allButtons, show List.range 6 = [0, 1, 2, 3, 4, 5] from rfl, List.filter_cons,
    List.filter_nil, buttonIndex]
  repeat' split
  all_goals rfl

/-! ### The lane functions -/

theorem shiftIn_getLsbD_zero (h : Byte) (s : Bool) : (shiftIn h s).getLsbD 0 = s := by
  cases s <;> simp [shiftIn]

theorem shiftIn_getLsbD_succ (h : Byte) (s : Bool) (k : Nat) (hk : k < 7) :
    (shiftIn h s).getLsbD (k + 1) = h.getLsbD k := by
  have h0 : (0xFF#8).getLsbD (k + 1) = true := by
    have : ∀ j < 7, (0xFF#8).getLsbD (j + 1) = true := by decide
    exact this k hk
  simp only [shiftIn, BitVec.getLsbD_or, BitVec.getLsbD_and, BitVec.getLsbD_shiftLeft, h0,
    BitVec.getLsbD_setWidth, BitVec.getLsbD_ofBool]
  simp [show k + 1 < 8 by omega]

theorem isPress_eq_true {h : Byte} {st : LogicalState} : isPress h st = true ↔ h = 0xFF#8 ∧ st = .up := by
  simp [isPress]

theorem isRelease_eq_true {h : Byte} {st : LogicalState} :
    isRelease h st = true ↔ h = 0x00#8 ∧ st = .down := by
  cases st <;> simp [isRelease, isPress]

/-- The whole transition table (rule R87). -/
theorem nextLogical_eq (h : Byte) (st : LogicalState) :
    nextLogical h st = if h = 0xFF#8 then .down else if h = 0x00#8 then .up else st := by
  by_cases h1 : h = 0xFF#8 <;> by_cases h2 : h = 0x00#8 <;> cases st <;>
    simp_all [nextLogical, isPress, isRelease]

@[simp] theorem tickPressEv_getLsbD (pol : PerButton Polarity) (r : RawLevels) (e : Engine) (b : Button) :
    (tickPressEv pol r e).getLsbD (buttonIndex b) =
      isPress (shiftIn (e.hist.get b) (sample pol r b)) (e.st.get b) := by simp [tickPressEv]

@[simp] theorem tickReleaseEv_getLsbD (pol : PerButton Polarity) (r : RawLevels) (e : Engine) (b : Button) :
    (tickReleaseEv pol r e).getLsbD (buttonIndex b) =
      isRelease (shiftIn (e.hist.get b) (sample pol r b)) (e.st.get b) := by simp [tickReleaseEv]

/-! ### The reader port -/

/-- A read answers the port's byte and writes LAT only at SNAP_SEQ's offset. -/
theorem portRead_spec (a : Offset) (e : Engine) (l : Snapshot) :
    (portRead a e l).1 = portByte a e (portRead a e l).2 ∧
      ((a = 0x10#6 ∧ (portRead a e l).2 = e.pub) ∨ (a ≠ 0x10#6 ∧ (portRead a e l).2 = l)) := by
  by_cases h : a = 0x10#6 <;> simp [portRead, latchOn, h]

theorem portRead_lat_of_ne {a : Offset} (h : a ≠ 0x10#6) (e : Engine) (l : Snapshot) :
    (portRead a e l).2 = l := by simp [portRead, latchOn, h]

/-! ### Taking the next word -/

@[simp] theorem fetch_present (w : Word) (s : State) : fetch (present w s) = (w, s) := rfl

/-- A fetch takes the first listed word, or draws one where none is listed; it changes nothing else. -/
theorem fetch_spec (s : State) :
    (∃ w ws, s.input = w :: ws ∧ fetch s = (w, { s with input := ws })) ∨
      (s.input = [] ∧ fetch s = (Config.envWord s.draws, { s with draws := s.draws + 1 })) := by
  cases h : s.input with
  | nil => exact .inr ⟨rfl, by simp [fetch, h]⟩
  | cons w ws => exact .inl ⟨w, ws, rfl, by simp [fetch, h]⟩

theorem step_present (w : Word) (s : State) :
    step (present w s) = match decode w with
      | .error .reservedBit12 => .refused (.reservedWord w)
      | .ok i => exec i s := rfl

/-! ### The effect of every operation -/

/-- What an operation does to the state, by the shape of the operation. -/
def effect : Operation → State → State
  | .nop => idleStep
  | .tick r => tickStep r
  | .rd a => readStep a
  | .tickRd r a => tickReadStep r a
  | .rst => resetStep

/-- Every operation answers a next state, and which one depends on the operation's shape alone. -/
theorem exec_eq_effect (i : Instr) (s : State) : exec i s = .next (effect (Operation.ofInstr i) s) := by
  cases i <;> rfl

theorem ofInstr_decodeRead (a : Offset) : Operation.ofInstr (decodeRead a) = .rd a := by
  revert a; decide

end Sys2Proof.Machine
end

