-- ==== Sys2Proof/Laws/PerInstr.lean ====
section
/-! SUPPORT. Statements made for every operation, one lemma per constructor of `Instr`. -/

namespace Sys2Proof.Laws

/-! ### The canonical word of a well-formed operation selects the operation's own row (rules R74, R79) -/

/-- The canonical word of `i` selects the row of `i` in the opcode table. -/
def EncodesToItsRow.Statement (i : Instr) : Prop := i.WellFormed → i.row.selectedBy (encode i) = true

theorem EncodesToItsRow.nop :
    EncodesToItsRow.Statement (.nop) := fun _ => rfl

theorem EncodesToItsRow.tick (r : RawLevels) :
    EncodesToItsRow.Statement (.tick r) := by
  revert r; unfold EncodesToItsRow.Statement; decide

theorem EncodesToItsRow.tickRd (r : RawLevels) (a : Offset) :
    EncodesToItsRow.Statement (.tickRd r a) := by
  intro _
  have ha : addrBits a &&& 0xF000#16 = 0#16 := (by decide : ∀ a, addrBits a &&& 0xF000#16 = 0#16) a
  have hr : rawBits r &&& 0xF000#16 = 0#16 := (by decide : ∀ r, rawBits r &&& 0xF000#16 = 0#16) r
  have h : (0x6000#16 ||| addrBits a ||| rawBits r) &&& 0xF000#16 = 0x6000#16 := by
    rw [BitVec.and_comm, BitVec.and_or_distrib_left, BitVec.and_or_distrib_left, BitVec.and_comm _ (addrBits a),
      BitVec.and_comm _ (rawBits r), ha, hr]
    decide
  simpa [OpRow.selectedBy, Instr.row, encode] using h

theorem EncodesToItsRow.rst :
    EncodesToItsRow.Statement (.rst) := fun _ => rfl

theorem EncodesToItsRow.rdHist0 :
    EncodesToItsRow.Statement (.rdHist0) := fun _ => rfl

theorem EncodesToItsRow.rdHist1 :
    EncodesToItsRow.Statement (.rdHist1) := fun _ => rfl

theorem EncodesToItsRow.rdHist2 :
    EncodesToItsRow.Statement (.rdHist2) := fun _ => rfl

theorem EncodesToItsRow.rdHist3 :
    EncodesToItsRow.Statement (.rdHist3) := fun _ => rfl

theorem EncodesToItsRow.rdHist4 :
    EncodesToItsRow.Statement (.rdHist4) := fun _ => rfl

theorem EncodesToItsRow.rdHist5 :
    EncodesToItsRow.Statement (.rdHist5) := fun _ => rfl

theorem EncodesToItsRow.rdState :
    EncodesToItsRow.Statement (.rdState) := fun _ => rfl

theorem EncodesToItsRow.rdCountLo :
    EncodesToItsRow.Statement (.rdCountLo) := fun _ => rfl

theorem EncodesToItsRow.rdCountHi :
    EncodesToItsRow.Statement (.rdCountHi) := fun _ => rfl

theorem EncodesToItsRow.rdInd :
    EncodesToItsRow.Statement (.rdInd) := fun _ => rfl

theorem EncodesToItsRow.rdSnapSeq :
    EncodesToItsRow.Statement (.rdSnapSeq) := fun _ => rfl

theorem EncodesToItsRow.rdSnapState :
    EncodesToItsRow.Statement (.rdSnapState) := fun _ => rfl

theorem EncodesToItsRow.rdSnapCountLo :
    EncodesToItsRow.Statement (.rdSnapCountLo) := fun _ => rfl

theorem EncodesToItsRow.rdSnapCountHi :
    EncodesToItsRow.Statement (.rdSnapCountHi) := fun _ => rfl

theorem EncodesToItsRow.rdRsvd0607 (a : Offset) :
    EncodesToItsRow.Statement (.rdRsvd0607 a) := by
  revert a; unfold EncodesToItsRow.Statement; decide

theorem EncodesToItsRow.rdRsvd09 :
    EncodesToItsRow.Statement (.rdRsvd09) := fun _ => rfl

theorem EncodesToItsRow.rdRsvd0D :
    EncodesToItsRow.Statement (.rdRsvd0D) := fun _ => rfl

theorem EncodesToItsRow.rdRsvd0E0F (a : Offset) :
    EncodesToItsRow.Statement (.rdRsvd0E0F a) := by
  revert a; unfold EncodesToItsRow.Statement; decide

theorem EncodesToItsRow.rdRsvd1417 (a : Offset) :
    EncodesToItsRow.Statement (.rdRsvd1417 a) := by
  revert a; unfold EncodesToItsRow.Statement; decide

theorem EncodesToItsRow.rdRsvd181F (a : Offset) :
    EncodesToItsRow.Statement (.rdRsvd181F a) := by
  revert a; unfold EncodesToItsRow.Statement; decide

theorem EncodesToItsRow.rdRsvd203F (a : Offset) :
    EncodesToItsRow.Statement (.rdRsvd203F a) := by
  revert a; unfold EncodesToItsRow.Statement; decide

end Sys2Proof.Laws
end

