-- ==== Sys2Proof/Laws/Runs.lean ====
section
/-! SUPPORT. Steps on a presented word by the word's bits, and runs over words. -/

namespace Sys2Proof.Machine

/-- The operation a word carries, read from its bits (rule R75). -/
def operationOf (w : Word) : Operation :=
  if rstBit w then .rst
  else match tickBit w, rdBit w with
    | false, false => .nop
    | true, false => .tick (rawField w)
    | false, true => .rd (addrField w)
    | true, true => .tickRd (rawField w) (addrField w)

/-- A step on a presented word, once and for all: a refusal or the effect of the word's operation. -/
theorem step_present_eq (w : Word) (s : State) :
    step (present w s) =
      if rsvBit w then .refused (.reservedWord w) else .next (effect (operationOf w) s) := by
  rw [step_present]
  unfold decode operationOf
  by_cases h : rsvBit w = true
  · simp [h]
  by_cases h1 : rstBit w = true
  · simp [h, h1, exec_eq_effect, Operation.ofInstr]
  · cases ht : tickBit w <;> cases hd : rdBit w <;> simp only [h, h1, Bool.false_eq_true, if_false]
    · simp [exec_eq_effect, Operation.ofInstr]
    · rw [exec_eq_effect, ofInstr_decodeRead]
    · simp [exec_eq_effect, Operation.ofInstr]
    · simp [exec_eq_effect, Operation.ofInstr]

theorem step_present_next {w : Word} {s t : State} (h : step (present w s) = .next t) :
    rsvBit w = false ∧ t = effect (operationOf w) s := by
  rw [step_present_eq] at h
  cases hw : rsvBit w <;> simp_all

/-- The engine after a step on a presented word. -/
theorem step_eng {w : Word} {s t : State} (h : step (present w s) = .next t) :
    t.eng = if resets w then Engine.reset
      else match tickOf w with
        | some r => tickEngine s.cfg.pol r s.eng
        | none => s.eng := by
  obtain ⟨hr, rfl⟩ := step_present_next h
  unfold operationOf resets tickOf
  cases rstBit w <;> cases tickBit w <;> cases rdBit w <;> simp [hr, effect]

/-- LAT after a step on a presented word. -/
theorem step_lat {w : Word} {s t : State} (h : step (present w s) = .next t) :
    t.lat = if resets w then Snapshot.reset else if readOf w = some 0x10#6 then s.eng.pub else s.lat := by
  obtain ⟨hr, rfl⟩ := step_present_next h
  unfold operationOf resets readOf
  cases rstBit w <;> cases tickBit w <;> cases rdBit w <;> simp [hr, effect, portRead, latchOn]

/-- The event outputs of a step on a presented word. -/
theorem step_events {w : Word} {s t : State} (h : step (present w s) = .next t) :
    t.out.pressEv = (match tickOf w with
        | some r => tickPressEv s.cfg.pol r s.eng
        | none => 0#6) ∧
      t.out.releaseEv = (match tickOf w with
        | some r => tickReleaseEv s.cfg.pol r s.eng
        | none => 0#6) ∧
      t.out.hbPulse = (tickOf w).isSome := by
  obtain ⟨hr, rfl⟩ := step_present_next h
  unfold operationOf tickOf
  cases rstBit w <;> cases tickBit w <;> cases rdBit w <;> simp [hr, effect]

/-- A step on a presented word changes neither the parameters nor the words to come. -/
theorem step_rest {w : Word} {s t : State} (h : step (present w s) = .next t) :
    t.cfg = s.cfg ∧ t.input = s.input ∧ t.draws = s.draws := by
  obtain ⟨hr, rfl⟩ := step_present_next h
  unfold operationOf
  cases rstBit w <;> cases tickBit w <;> cases rdBit w <;> simp [effect]

/-- Any step is a step on a presented word: the one the fetch takes. -/
theorem step_eq_present (s : State) : step s = step (present (fetch s).1 (fetch s).2) := rfl

/-! ### Runs -/

@[simp] theorem runWords_nil (s : State) : runWords [] s = .next s := rfl
@[simp] theorem outputsOf_nil (s : State) : outputsOf [] s = [] := rfl

theorem runWords_cons_next {w : Word} {ws : List Word} {s t : State} (h : runWords (w :: ws) s = .next t) :
    ∃ u, step (present w s) = .next u ∧ runWords ws u = .next t := by
  unfold runWords at h
  split at h <;> simp_all

theorem outputsOf_cons {w : Word} {ws : List Word} {s u : State} (h : step (present w s) = .next u) :
    outputsOf (w :: ws) s = u.out :: outputsOf ws u := by
  simp [outputsOf, h]

/-- An invariant kept by every step of a run holds at its end. -/
theorem runWords_keeps {P : Word → Prop} {Inv : State → Prop}
    (keep : ∀ w s t, P w → step (present w s) = .next t → Inv s → Inv t) :
    ∀ (ws : List Word) (s t : State), (∀ w ∈ ws, P w) → runWords ws s = .next t → Inv s → Inv t
  | [], s, t, _, h, hi => by simp at h; exact h ▸ hi
  | w :: ws, s, t, hp, h, hi => by
    obtain ⟨u, hu, ht⟩ := runWords_cons_next h
    exact runWords_keeps keep ws u t (fun x hx => hp x (by simp [hx])) ht
      (keep w s u (hp w (by simp)) hu hi)

theorem runWords_append_next {ws vs : List Word} {s t : State} :
    runWords (ws ++ vs) s = .next t ↔ ∃ u, runWords ws s = .next u ∧ runWords vs u = .next t := by
  induction ws generalizing s with
  | nil => simp
  | cons w ws ih =>
    simp only [List.cons_append, runWords]
    cases step (present w s) with
    | next u => simp [ih]
    | fault f => simp
    | refused f => simp

end Sys2Proof.Machine
end

