-- ==== Sys2Proof/Tests/Slice0.lean ====
section
/-! SUPPORT. Tests on small states, expected results from spec/95_test_vectors.md and the rules' worked examples, and
one witness for the hypotheses of each statement. -/

namespace Sys2Proof.Tests

open Sys2Proof.Machine

/-! ### States to test on -/

/-- The next state of an outcome, if it is one. -/
def next? : Host.Outcome State Fault Refusal → Option State
  | .next t => some t
  | .fault _ => none
  | .refused _ => none

/-- The state after a run; the run's own start where it does not complete. -/
def after (ws : List Word) (s : State) : State := (next? (runWords ws s)).getD s

/-- All lines active-high, one shared pin (95_test_vectors.md: "unless a vector says otherwise"). -/
def plain : Params :=
  { pol := ⟨.activeHigh, .activeHigh, .activeHigh, .activeHigh, .activeHigh, .activeHigh⟩, indMode := .shared }

/-- Reset of that instance. -/
def atReset : State := State.resetWith plain

/-- The state of 95_test_vectors.md 3.1. -/
def vec : State :=
  { atReset with
    eng :=
      { hist := ⟨0xFF#8, 0x01#8, 0x80#8, 0x00#8, 0x00#8, 0xAA#8⟩
        st := ⟨.down, .up, .down, .up, .up, .up⟩
        count := 0x04D2#16, hbLvl := true, prLvl := false
        pub := { seq := 0x2A#8, state := 0x05#6, count := 0x04D2#16 } }
    lat := { seq := 0x29#8, state := 0x01#6, count := 0x04D1#16 } }

/-- From reset, with the first three histories 0x7F and the given count: buttons 0 to 2 are one sample from a press
(95_test_vectors.md 2.2). -/
def nearPress (count : BitVec 16) : State :=
  { atReset with eng := { Engine.reset with hist := ⟨0x7F#8, 0x7F#8, 0x7F#8, 0x00#8, 0x00#8, 0x00#8⟩, count := count } }

/-- From reset, with button 0 Down and one sample from its release. -/
def nearRelease : State :=
  { atReset with eng := { Engine.reset with hist := ⟨0x80#8, 0, 0, 0, 0, 0⟩, st := ⟨.down, .up, .up, .up, .up, .up⟩ } }

/-- The byte a step of an operation puts on rdata. -/
def rdataOf (i : Instr) (s : State) : Option Byte := (next? (exec i s)).map fun t => t.out.rdata

theorem noReset_of_all {ws : List Word} (h : ws.all (fun w => !resets w) = true) : NoReset ws := by
  simpa [NoReset] using h
theorem noLatch_of_all {ws : List Word} (h : ws.all (fun w => readOf w != some 0x10#6) = true) : NoLatch ws := by
  simpa [NoLatch] using h
theorem presentable_of_all {ws : List Word} (h : ws.all (fun w => !rsvBit w) = true) : Presentable ws := by
  simpa [Presentable] using h

/-! ### Well-formedness: an ill-formed term for each check, and the ends of each range -/

theorem test_wf_rsvd0607 : ¬(Instr.rdRsvd0607 0x05#6).WellFormed ∧ ¬(Instr.rdRsvd0607 0x08#6).WellFormed ∧
    (Instr.rdRsvd0607 0x06#6).WellFormed ∧ (Instr.rdRsvd0607 0x07#6).WellFormed := by decide
theorem test_wf_rsvd0E0F : ¬(Instr.rdRsvd0E0F 0x0D#6).WellFormed ∧ ¬(Instr.rdRsvd0E0F 0x10#6).WellFormed ∧
    (Instr.rdRsvd0E0F 0x0E#6).WellFormed ∧ (Instr.rdRsvd0E0F 0x0F#6).WellFormed := by decide
theorem test_wf_rsvd1417 : ¬(Instr.rdRsvd1417 0x13#6).WellFormed ∧ ¬(Instr.rdRsvd1417 0x18#6).WellFormed ∧
    (Instr.rdRsvd1417 0x14#6).WellFormed ∧ (Instr.rdRsvd1417 0x17#6).WellFormed := by decide
theorem test_wf_rsvd181F : ¬(Instr.rdRsvd181F 0x17#6).WellFormed ∧ ¬(Instr.rdRsvd181F 0x20#6).WellFormed ∧
    (Instr.rdRsvd181F 0x18#6).WellFormed ∧ (Instr.rdRsvd181F 0x1F#6).WellFormed := by decide
theorem test_wf_rsvd203F : ¬(Instr.rdRsvd203F 0x1F#6).WellFormed ∧
    (Instr.rdRsvd203F 0x20#6).WellFormed ∧ (Instr.rdRsvd203F 0x3F#6).WellFormed := by decide

/-! ### Decoding: words written from rules R63, R69 and the rows of the opcode table, don't-care bits set in some -/

/-- Bits 15:12 are 0000, 0100, 0110 and 1xx0 (rule R68). -/
theorem test_decode_nop_tick_rst : decode 0b0000000000000000#16 = .ok .nop ∧ decode 0b0000111111111111#16 = .ok .nop ∧
    decode 0b0100111111000010#16 = .ok (.tick 0b000010#6) ∧
    decode 0b0110010000000100#16 = .ok (.tickRd 0b000100#6 0x10#6) ∧
    decode 0b1000000000000000#16 = .ok .rst ∧ decode 0b1110111111111111#16 = .ok .rst := by decide
/-- Bit 12 wins over everything (rule R70). -/
theorem test_decode_reserved : decode 0x1000#16 = .error .reservedBit12 ∧ decode 0x7000#16 = .error .reservedBit12 ∧
    decode 0x9000#16 = .error .reservedBit12 ∧ decode 0xFFFF#16 = .error .reservedBit12 := by decide
/-- Bits 15:12 are 0010, ADDR is in 11:6, RAW is ignored (rules R63, R69). -/
theorem test_decode_hist : decode 0b0010000000000000#16 = .ok .rdHist0 ∧ decode 0b0010000001000000#16 = .ok .rdHist1 ∧
    decode 0b0010000010111111#16 = .ok .rdHist2 ∧ decode 0b0010000011000000#16 = .ok .rdHist3 ∧
    decode 0b0010000100000000#16 = .ok .rdHist4 ∧ decode 0b0010000101000001#16 = .ok .rdHist5 := by decide
theorem test_decode_live : decode 0b0010001000000000#16 = .ok .rdState ∧
    decode 0b0010001010000000#16 = .ok .rdCountLo ∧ decode 0b0010001011000000#16 = .ok .rdCountHi ∧
    decode 0b0010001100101010#16 = .ok .rdInd := by decide
theorem test_decode_snapshot : decode 0b0010010000000000#16 = .ok .rdSnapSeq ∧
    decode 0b0010010001000000#16 = .ok .rdSnapState ∧ decode 0b0010010010000000#16 = .ok .rdSnapCountLo ∧
    decode 0b0010010011000000#16 = .ok .rdSnapCountHi := by decide
theorem test_decode_rsvd_low : decode 0b0010000110000000#16 = .ok (.rdRsvd0607 0x06#6) ∧
    decode 0b0010000111000000#16 = .ok (.rdRsvd0607 0x07#6) ∧ decode 0b0010001001000000#16 = .ok .rdRsvd09 ∧
    decode 0b0010001101000000#16 = .ok .rdRsvd0D ∧ decode 0b0010001110000000#16 = .ok (.rdRsvd0E0F 0x0E#6) ∧
    decode 0b0010001111000000#16 = .ok (.rdRsvd0E0F 0x0F#6) := by decide
theorem test_decode_rsvd_high : decode 0b0010010100000000#16 = .ok (.rdRsvd1417 0x14#6) ∧
    decode 0b0010010111000000#16 = .ok (.rdRsvd1417 0x17#6) ∧ decode 0b0010011000000000#16 = .ok (.rdRsvd181F 0x18#6) ∧
    decode 0b0010011111000000#16 = .ok (.rdRsvd181F 0x1F#6) ∧ decode 0b0010100000000000#16 = .ok (.rdRsvd203F 0x20#6) ∧
    decode 0b0010111111000000#16 = .ok (.rdRsvd203F 0x3F#6) := by decide

/-- The host's reading of a table row: bits above `nbits` are 0. -/
theorem test_decodeTableWord : decodeTableWord 16 0x623F = some (.tickRd 0b111111#6 0x08#6) ∧
    decodeTableWord 16 0x1000 = none ∧ decodeTableWord 8 0x4001 = some .nop := by decide

/-! ### TICK: the lane table of 95_test_vectors.md 2.1 and vectors of 2.2, 2.3 -/

/-- History and state before, sample, history and state after, press, release: rows 2.1.1 to 2.1.16. -/
def laneVectors : List (Byte × LogicalState × Bool × Byte × LogicalState × Bool × Bool) :=
  [ (0x00#8, .up, false, 0x00#8, .up, false, false), (0x00#8, .up, true, 0x01#8, .up, false, false),
    (0x7F#8, .up, true, 0xFF#8, .down, true, false), (0x7F#8, .up, false, 0xFE#8, .up, false, false),
    (0xFF#8, .up, true, 0xFF#8, .down, true, false), (0xFF#8, .down, true, 0xFF#8, .down, false, false),
    (0xFF#8, .down, false, 0xFE#8, .down, false, false), (0x80#8, .down, false, 0x00#8, .up, false, true),
    (0x80#8, .down, true, 0x01#8, .down, false, false), (0x01#8, .down, false, 0x02#8, .down, false, false),
    (0x00#8, .down, false, 0x00#8, .up, false, true), (0x80#8, .up, false, 0x00#8, .up, false, false),
    (0xFE#8, .up, true, 0xFD#8, .up, false, false), (0xAA#8, .up, true, 0x55#8, .up, false, false),
    (0x55#8, .down, false, 0xAA#8, .down, false, false), (0x7F#8, .down, true, 0xFF#8, .down, false, false) ]

theorem test_lane_vectors : ∀ v ∈ laneVectors,
    shiftIn v.1 v.2.2.1 = v.2.2.2.1 ∧ nextLogical v.2.2.2.1 v.2.1 = v.2.2.2.2.1 ∧
      isPress v.2.2.2.1 v.2.1 = v.2.2.2.2.2.1 ∧ isRelease v.2.2.2.1 v.2.1 = v.2.2.2.2.2.2 := by decide

/-- Vector 2.2.3: three presses in one tick at COUNT = 0xFFFF. -/
theorem test_tick_three_presses_wrap :
    (next? (exec (.tick 0b000111#6) (nearPress 0xFFFF#16))).map (fun t => (t.eng.count, t.eng.prLvl, t.eng.hbLvl,
      t.eng.pub, t.out.pressEv)) =
      some (0x0002#16, true, true, { seq := 0x01#8, state := 0x07#6, count := 0x0002#16 }, 0b000111#6) := by decide
/-- Vectors 2.2.7 and 2.3.2: one press cancels the heartbeat on the shared pin; an active-low line reading 1 samples
as released. -/
theorem test_tick_pin_and_polarity :
    (next? (exec (.tick 0b000001#6) (nearPress 0#16))).map indicatorPins = some (.shared false) ∧
    (next? (exec (.tick 0b000001#6)
      { atReset with cfg := { plain with pol := { plain.pol with dpadLeft := .activeLow } } })).map
      (fun t => t.eng.hist) = some ⟨0x00#8, 0x00#8, 0x00#8, 0x00#8, 0x00#8, 0x00#8⟩ := by decide

/-! ### TICK.RD, NOP, RST: 95_test_vectors.md 3.2 -/

/-- Vector 3.2.3: the latch copies the old PUB. -/
theorem test_tickRd_latch : (next? (exec (.tickRd 0b000000#6 0x10#6) atReset)).map
    (fun t => (t.out.rdata, t.lat.seq, t.eng.pub.seq)) = some (0x00#8, 0x00#8, 0x01#8) := by decide
/-- Vector 3.2.4: the read shows the state from before the release. -/
theorem test_tickRd_state : (next? (exec (.tickRd 0b000000#6 0x08#6) nearRelease)).map
    (fun t => (t.out.rdata, packStates t.eng.st, t.out.releaseEv)) = some (0x01#8, 0#6, 0b000001#6) := by decide
/-- Vectors 3.2.1, 3.2.2. -/
theorem test_nop : (next? (step (present 0x0FFF#16 vec))).map (fun t => (t.eng == vec.eng, t.lat == vec.lat, t.out.rdata)) =
    some (true, true, 0x00#8) := by decide
/-- Vectors 3.2.5, 3.2.6. -/
theorem test_rst : next? (step (present 0xEFFF#16 vec)) = some atReset := by decide

/-! ### The reads: 95_test_vectors.md 3.1 -/

theorem test_rdHist0 : rdataOf .rdHist0 vec = some 0xFF#8 := by decide
theorem test_rdHist1 : rdataOf .rdHist1 vec = some 0x01#8 := by decide
theorem test_rdHist2 : rdataOf .rdHist2 vec = some 0x80#8 := by decide
theorem test_rdHist3 : rdataOf .rdHist3 { vec with eng := { vec.eng with hist := ⟨0, 0, 0, 0x0F#8, 0, 0⟩ } } = some 0x0F#8 := by
  decide
theorem test_rdHist4 : rdataOf .rdHist4 { vec with eng := { vec.eng with hist := ⟨0, 0, 0, 0, 0xF1#8, 0⟩ } } = some 0xF1#8 := by
  decide
theorem test_rdHist5 : rdataOf .rdHist5 vec = some 0xAA#8 := by decide
theorem test_rdState : rdataOf .rdState vec = some 0x05#8 := by decide
theorem test_rdCountLo : rdataOf .rdCountLo vec = some 0xD2#8 := by decide
theorem test_rdCountHi : rdataOf .rdCountHi vec = some 0x04#8 := by decide
theorem test_rdInd : rdataOf .rdInd vec = some 0x05#8 := by decide
theorem test_rdSnapSeq : (next? (exec .rdSnapSeq vec)).map (fun t => (t.out.rdata, t.lat)) =
    some (0x2A#8, { seq := 0x2A#8, state := 0x05#6, count := 0x04D2#16 }) := by decide
theorem test_rdSnapState : rdataOf .rdSnapState vec = some 0x01#8 := by decide
theorem test_rdSnapCountLo : rdataOf .rdSnapCountLo vec = some 0xD1#8 := by decide
theorem test_rdSnapCountHi : rdataOf .rdSnapCountHi vec = some 0x04#8 := by decide
theorem test_rdRsvd0607 : rdataOf (.rdRsvd0607 0x06#6) vec = some 0x00#8 := by decide
theorem test_rdRsvd09 : rdataOf .rdRsvd09 vec = some 0x00#8 := by decide
theorem test_rdRsvd0D : rdataOf .rdRsvd0D vec = some 0x00#8 := by decide
theorem test_rdRsvd0E0F : rdataOf (.rdRsvd0E0F 0x0F#6) vec = some 0x00#8 := by decide
theorem test_rdRsvd1417 : rdataOf (.rdRsvd1417 0x14#6) vec = some 0x00#8 := by decide
theorem test_rdRsvd181F : rdataOf (.rdRsvd181F 0x1F#6) vec = some 0x00#8 := by decide
theorem test_rdRsvd203F : rdataOf (.rdRsvd203F 0x3F#6) vec = some 0x00#8 := by decide

/-- A read is recorded as the pair of rule R104. -/
theorem test_read_is_observed : (next? (step (vec.withFetchWord 16 0x22C0))).map (fun t => t.reads) =
    some [⟨0x0B#6, 0x04#8⟩] := by decide
/-- A reserved word is refused by the step (rule R70). -/
theorem test_step_refuses : next? (step (vec.withFetchWord 16 0x3000)) = none := by decide

/-! ### The assembler: rules R76 to R78 -/

theorem test_print : printWord 0x623F#16 = some "TICK.RD 0b111111, STATE".toList ∧
    printWord 0x2FC0#16 = some "RD 0x3F".toList ∧ printWord 0x4FC1#16 = some "TICK 0b000001".toList ∧
    printWord 0x1000#16 = none := by decide
theorem test_parse : parseLine "TICK 0x3F ; all pressed".toList = .operation (.tick 0b111111#6) ∧
    parseLine "RD 0x10".toList = .operation (.rd 0x10#6) ∧ parseLine "; only a comment".toList = .blank ∧
    parseLine "RD 0x40".toList = .illFormed ∧ parseLine "TICK.RD 0b000100, SNAP_SEQ".toList =
      .operation (.tickRd 0b000100#6 0x10#6) := by decide
/-- HOLD and IDLE on an instance with button 0 active-low (rule R77). -/
theorem test_pseudo : (Pseudo.hold 0b000011#6 1).expand { plain.pol with dpadLeft := .activeLow } = [.tick 0b000010#6] ∧
    (Pseudo.idle 2).expand { plain.pol with dpadLeft := .activeLow } = [.tick 0b000001#6, .tick 0b000001#6] := by decide

/-! ### Witnesses: for each statement with hypotheses, a state and operands that meet them -/

theorem witness_DecodeInvertsEncode : (Instr.tickRd 0b101010#6 0x3F#6).WellFormed ∧ (Instr.rdRsvd181F 0x18#6).WellFormed := by
  decide
theorem witness_EncodeOfDecodeDropsOnlyDontCareBits : decode 0x4FC1#16 = .ok (.tick 0b000001#6) := by decide
/-- RST with its ignored bits, TICK with ADDR ignored, RD with RAW ignored, and NOP, TICK, RST among the canonical words. -/
theorem witness_DontCareFieldsAreIgnored :
    ((0xEFFF#16).getLsbD 12 = (0x8000#16).getLsbD 12 ∧ (0xEFFF#16).getLsbD 15 = (0x8000#16).getLsbD 15 ∧
      (0xEFFF#16).getLsbD 15 = true) ∧
    ((0x4FC1#16).getLsbD 12 = (0x4001#16).getLsbD 12 ∧ (0x4FC1#16).getLsbD 15 = (0x4001#16).getLsbD 15 ∧
      (0x4FC1#16).getLsbD 14 = (0x4001#16).getLsbD 14 ∧ (0x4FC1#16).getLsbD 13 = (0x4001#16).getLsbD 13 ∧
      (0x4FC1#16).getLsbD 13 = false ∧ (0x4FC1#16).extractLsb' 0 6 = (0x4001#16).extractLsb' 0 6) ∧
    ((0x243F#16).getLsbD 15 = false ∧ (0x243F#16).getLsbD 14 = false ∧ (0x243F#16).getLsbD 13 = (0x2400#16).getLsbD 13 ∧
      (0x243F#16).extractLsb' 6 6 = (0x2400#16).extractLsb' 6 6) ∧
    (Instr.nop.WellFormed ∧ (encode .nop).getLsbD 15 = false ∧ (encode .nop).getLsbD 13 = false) ∧
    (Instr.rdState.WellFormed ∧ (encode .rdState).getLsbD 15 = false ∧ (encode .rdState).getLsbD 14 = false) ∧
    (encode .rst).getLsbD 15 = true := by decide
/-- One word for each row of the operation map. -/
theorem witness_DecodeFollowsTheOperationMap : (0xF000#16).getLsbD 12 = true ∧
    ((0x8000#16).getLsbD 12 = false ∧ (0x8000#16).getLsbD 15 = true) ∧
    ([0x0FFF#16, 0x4FFF#16, 0x2FFF#16, 0x6FFF#16].all fun w => !w.getLsbD 12 && !w.getLsbD 15) = true := by decide
/-- Both ends of each range of reserved offsets. -/
theorem witness_ReadMnemonicIsSelectedByOffset : decodeRead 0x06#6 = .rdRsvd0607 0x06#6 ∧
    decodeRead 0x07#6 = .rdRsvd0607 0x07#6 ∧ decodeRead 0x0E#6 = .rdRsvd0E0F 0x0E#6 ∧
    decodeRead 0x0F#6 = .rdRsvd0E0F 0x0F#6 ∧ decodeRead 0x14#6 = .rdRsvd1417 0x14#6 ∧
    decodeRead 0x17#6 = .rdRsvd1417 0x17#6 ∧ decodeRead 0x18#6 = .rdRsvd181F 0x18#6 ∧
    decodeRead 0x1F#6 = .rdRsvd181F 0x1F#6 ∧ decodeRead 0x20#6 = .rdRsvd203F 0x20#6 ∧
    decodeRead 0x3F#6 = .rdRsvd203F 0x3F#6 := by decide
theorem witness_OpcodeRowsPartitionTheWords : decode 0x2FC0#16 = .ok (.rdRsvd203F 0x3F#6) := by decide
theorem witness_PrintingInvertsAssembling : (0x6FFF#16).getLsbD 12 = false := by decide
theorem witness_StepRunsTheDecodedInstruction :
    (present 0x2400#16 vec).input = [0x2400#16] ∧ decode 0x2400#16 = .ok .rdSnapSeq ∧ atReset.input = [] := by decide
theorem witness_ReservedWordIsRefused : (0x1000#16).getLsbD 12 = true ∧ (0xFFFF#16).getLsbD 12 = true := by decide
theorem witness_PresentableRunsComplete : Presentable [0x8000#16, 0x4001#16, 0x6400#16, 0x2400#16, 0x0000#16] :=
  presentable_of_all (by decide)
theorem witness_TickShiftsTheSampleIn : Instr.tick 1#6 = .tick 1#6 ∨ Instr.tick 1#6 = .tickRd 1#6 0#6 := by decide
/-- A press, a release, and a tick with neither: the three cases of the transition table. -/
theorem witness_TickFollowsTheTransitionTable :
    (next? (exec (.tick 1#6) (nearPress 0#16))).map (fun t => (t.eng.hist.dpadLeft, (nearPress 0#16).eng.st.dpadLeft)) =
      some (0xFF#8, .up) ∧
    (next? (exec (.tickRd 0#6 0x08#6) nearRelease)).map (fun t => (t.eng.hist.dpadLeft, nearRelease.eng.st.dpadLeft)) =
      some (0x00#8, .down) ∧
    (next? (exec (.tick 0#6) (nearPress 0#16))).map (fun t => t.eng.hist.dpadLeft) = some 0xFE#8 := by decide
theorem witness_TickAddsThePressEvents : Instr.tickRd 7#6 0x10#6 = .tick 7#6 ∨ Instr.tickRd 7#6 0x10#6 = .tickRd 7#6 0x10#6 := by
  decide
theorem witness_TickTogglesTheIndicatorLevels : Instr.tick 3#6 = .tick 3#6 ∨ Instr.tick 3#6 = .tickRd 3#6 0x10#6 := by decide
theorem witness_TickPublishesTheSnapshot : Instr.tick 0#6 = .tick 0#6 ∨ Instr.tick 0#6 = .tickRd 0#6 0x10#6 := by decide
theorem witness_TickIsIndependentOfTheLoopOrder : allButtons.reverse.Perm allButtons := List.reverse_perm _
theorem witness_TickLanesAreIndependent :
    vec.eng.hist.get .dpadDown = atReset.eng.hist.get .dpadDown ∧ vec.eng.st.get .dpadDown = atReset.eng.st.get .dpadDown ∧
      vec.cfg.pol.get .dpadDown = atReset.cfg.pol.get .dpadDown ∧
      (0b001000#6).getLsbD (buttonIndex .dpadDown) = (0b111111#6).getLsbD (buttonIndex .dpadDown) := by decide
theorem witness_TickRdIsReadThenTick :
    (next? (exec (.tickRd 0#6 0x10#6) vec)).map (fun t => t.lat.seq) = some 0x2A#8 := by decide
theorem witness_NopChangesNoStateElement : (0x0FFF#16).extractLsb' 12 4 = 0#4 := by decide
theorem witness_ResetClearsEveryElement : (0xEFFF#16).getLsbD 15 = true ∧ (0xEFFF#16).getLsbD 12 = false := by decide
theorem witness_ResetOverridesTheRestOfTheWord : (0xE43F#16).getLsbD 15 = true ∧ (0xE43F#16).getLsbD 12 = false := by decide
theorem witness_ReadIndicatorLevels : ∀ k ∈ [3, 7], 3 ≤ k := by decide
theorem witness_ReadSnapStateReturnsTheLatchedStates : ∀ k ∈ [0, 5], k < 6 := by decide
theorem witness_ReservedOffsetsReadZero : (Instr.rdRsvd0607 0x06#6).WellFormed ∧ (Instr.rdRsvd0607 0x07#6).WellFormed ∧
    (Instr.rdRsvd0E0F 0x0E#6).WellFormed ∧ (Instr.rdRsvd0E0F 0x0F#6).WellFormed ∧
    (Instr.rdRsvd1417 0x14#6).WellFormed ∧ (Instr.rdRsvd1417 0x17#6).WellFormed ∧
    (Instr.rdRsvd181F 0x18#6).WellFormed ∧ (Instr.rdRsvd181F 0x1F#6).WellFormed ∧
    (Instr.rdRsvd203F 0x20#6).WellFormed ∧ (Instr.rdRsvd203F 0x3F#6).WellFormed := by decide
/-- A read of SNAP_SEQ and a read of another offset. -/
theorem witness_EveryReadWordReadsThePort :
    ((0x243F#16).extractLsb' 12 4 = 0x2#4 ∧ (0x243F#16).extractLsb' 6 6 = 0x10#6) ∧
    ((0x2440#16).extractLsb' 12 4 = 0x2#4 ∧ (0x2440#16).extractLsb' 6 6 ≠ 0x10#6) := by decide
theorem witness_RepeatedReadReturnsTheSame : (next? (exec (decodeRead 0x10#6) vec)).map (fun t => t.lat == t.eng.pub) =
    some true := by decide

/-! The witnesses about steps and runs name the next state as `after`; that the run completes is evaluated. -/

theorem run_after {ws : List Word} {s : State} (h : (next? (runWords ws s)).isSome = true) :
    runWords ws s = .next (after ws s) := by
  unfold after
  cases hr : runWords ws s <;> simp_all [next?]

theorem step_after {w : Word} {s : State} (h : (next? (runWords [w] s)).isSome = true) :
    step (present w s) = .next (after [w] s) := by
  have h2 := run_after h
  unfold runWords at h2
  cases hs : step (present w s) <;> simp_all [runWords]

/-- A coherent state, and a tick from it. -/
theorem witness_StepKeepsThePublishedSnapshotCoherent : Coherent vec ∧
    step (present 0x4007#16 vec) = .next (after [0x4007#16] vec) := ⟨by unfold Coherent; decide, step_after (by decide)⟩
theorem witness_StepKeepsHistoriesSettled : Settled vec ∧ step (present 0x4007#16 vec) = .next (after [0x4007#16] vec) :=
  ⟨fun b => by cases b <;> decide, step_after (by decide)⟩
theorem witness_StepKeepsLevelsCountingParities : LevelsCount (nearPress 0#16) ∧
    step (present 0x4007#16 (nearPress 0#16)) = .next (after [0x4007#16] (nearPress 0#16)) :=
  ⟨by unfold LevelsCount; decide, step_after (by decide)⟩
theorem witness_ParametersNeverChange : step (present 0x8000#16 vec) = .next (after [0x8000#16] vec) ∧
    runWords [0x8000#16, 0x4001#16] vec = .next (after [0x8000#16, 0x4001#16] vec) :=
  ⟨step_after (by decide), run_after (by decide)⟩
/-- An operation of the Reader alone, one that reads SNAP_SEQ no more than that, and a tick with another read. -/
theorem witness_OnlyTheOwnerWrites : Instr.rdSnapSeq.WellFormed ∧ Agent.tick ∉ agentsOf .rdSnapSeq ∧ Instr.rdSnapSeq ≠ .rst ∧
    (Instr.tickRd 0#6 0x11#6).WellFormed ∧ Instr.tickRd 0#6 0x11#6 ≠ .rst ∧ Instr.tickRd 0#6 0x11#6 ≠ .rdSnapSeq ∧
    ∀ r : RawLevels, Instr.tickRd 0#6 0x11#6 ≠ .tickRd r 0x10#6 := by
  refine ⟨by decide, by decide, by decide, by decide, by decide, by decide, fun r h => ?_⟩
  injection h with _ h2
  exact absurd h2 (by decide)
theorem witness_ReadsNeverDisturbTheEngine : agentsOf .rdSnapSeq = [.reader] ∧
    runWords [0x2400#16, 0x6407#16, 0x2000#16] vec = .next (after [0x2400#16, 0x6407#16, 0x2000#16] vec) :=
  ⟨by decide, run_after (by decide)⟩
theorem witness_IndicatorPinsFollowTheMode : vec.cfg.indMode = .shared ∧
    ({ vec with cfg := { plain with indMode := .split } } : State).cfg.indMode = .split := by decide

/-- A run from reset with reads between the ticks. -/
theorem witness_HistoryIsTheWindowOfSamples : NoReset [0x4001#16, 0x2400#16, 0x6400#16] ∧
    runWords [0x4001#16, 0x2400#16, 0x6400#16] (State.resetWith plain) =
      .next (after [0x4001#16, 0x2400#16, 0x6400#16] (State.resetWith plain)) ∧ 0 < 8 ∧ 7 < 8 :=
  ⟨noReset_of_all (by decide), run_after (by decide), by decide, by decide⟩
/-- Seven pressed samples and the eighth: button 0 goes Down. -/
theorem witness_TransitionsNeedEightEqualSamples_press : ∃ s t, NoReset (List.replicate 7 0x4001#16 ++ [0x4001#16]) ∧
    runWords (List.replicate 7 0x4001#16) (State.resetWith plain) = .next s ∧ step (present 0x4001#16 s) = .next t ∧
    s.eng.st.get .dpadLeft = .up ∧ t.eng.st.get .dpadLeft = .down :=
  ⟨_, _, noReset_of_all (by decide), run_after (by decide), step_after (by decide), by decide +kernel, by decide +kernel⟩
/-- Eight pressed samples, seven released ones, and the eighth: button 0 goes Up. -/
theorem witness_TransitionsNeedEightEqualSamples_release : ∃ s t,
    NoReset ((List.replicate 8 0x4001#16 ++ List.replicate 7 0x4000#16) ++ [0x4000#16]) ∧
    runWords (List.replicate 8 0x4001#16 ++ List.replicate 7 0x4000#16) (State.resetWith plain) = .next s ∧
    step (present 0x4000#16 s) = .next t ∧ s.eng.st.get .dpadLeft = .down ∧ t.eng.st.get .dpadLeft = .up :=
  ⟨_, _, noReset_of_all (by decide), run_after (by decide), step_after (by decide), by decide +kernel, by decide +kernel⟩
theorem witness_OnePressPerHold : NoReset [0x4001#16, 0x4001#16] ∧
    runWords [0x4001#16, 0x4001#16] (nearPress 0#16) = .next (after [0x4001#16, 0x4001#16] (nearPress 0#16)) ∧
    ∀ x ∈ samplesOf (nearPress 0#16).cfg.pol .dpadLeft [0x4001#16, 0x4001#16], x = true :=
  ⟨noReset_of_all (by decide), run_after (by decide), by decide⟩
/-- A press, then eight released samples, the last of them the release. -/
theorem witness_PressEventsLieSixteenTicksApart_release : ∃ s1 s2 s3, NoReset (List.replicate 7 0x4000#16 ++ [0x4000#16]) ∧
    step (present 0x4001#16 (nearPress 0#16)) = .next s1 ∧ s1.out.pressEv.getLsbD (buttonIndex .dpadLeft) = true ∧
    runWords (List.replicate 7 0x4000#16) s1 = .next s2 ∧ step (present 0x4000#16 s2) = .next s3 ∧
    s3.out.releaseEv.getLsbD (buttonIndex .dpadLeft) = true :=
  ⟨_, _, _, noReset_of_all (by decide), step_after (by decide), by decide +kernel, run_after (by decide),
    step_after (by decide), by decide +kernel⟩
/-- A press, eight released samples, seven pressed ones, and the eighth: the next press, sixteen ticks on. -/
theorem witness_PressEventsLieSixteenTicksApart_press : ∃ s1 s2 s3,
    NoReset ((List.replicate 8 0x4000#16 ++ List.replicate 7 0x4001#16) ++ [0x4001#16]) ∧
    step (present 0x4001#16 (nearPress 0#16)) = .next s1 ∧ s1.out.pressEv.getLsbD (buttonIndex .dpadLeft) = true ∧
    runWords (List.replicate 8 0x4000#16 ++ List.replicate 7 0x4001#16) s1 = .next s2 ∧
    step (present 0x4001#16 s2) = .next s3 ∧ s3.out.pressEv.getLsbD (buttonIndex .dpadLeft) = true :=
  ⟨_, _, _, noReset_of_all (by decide), step_after (by decide), by decide +kernel, run_after (by decide),
    step_after (by decide), by decide +kernel⟩
theorem witness_PressRateFromResetIsBounded : NoReset (List.replicate 8 0x403F#16) ∧
    runWords (List.replicate 8 0x403F#16) (State.resetWith plain) = .next (after (List.replicate 8 0x403F#16) (State.resetWith plain)) :=
  ⟨noReset_of_all (by decide), run_after (by decide)⟩
theorem witness_CountersCountTheirEvents :
    (NoReset [0x4007#16] ∧ runWords [0x4007#16] (nearPress 0xFFFF#16) = .next (after [0x4007#16] (nearPress 0xFFFF#16)) ∧
      pressTotal [0x4007#16] (nearPress 0xFFFF#16) < 65536) ∧
    ∃ t0 t, resets 0xEFFF#16 = true ∧ step (present 0xEFFF#16 vec) = .next t0 ∧ runWords [0x4007#16] t0 = .next t :=
  ⟨⟨noReset_of_all (by decide), run_after (by decide), by decide +kernel⟩,
    _, _, by decide, step_after (by decide), run_after (by decide)⟩
/-- One tick between the latches, and the bound of 255 ticks. -/
theorem witness_SequenceNumberCountsTicksBetweenLatches : ∃ s1 s2, NoReset [0x4000#16] ∧ exec .rdSnapSeq vec = .next s1 ∧
    runWords [0x4000#16] s1 = .next s2 ∧ (ticksOf [0x4000#16]).length ≤ 255 ∧
    (ticksOf (List.replicate 255 0x4000#16)).length ≤ 255 :=
  ⟨_, _, noReset_of_all (by decide), rfl, run_after (by decide), by decide, by decide +kernel⟩
/-- A tick and a live read stand between the latch and the snapshot reads. -/
theorem witness_SnapshotHoldsUntilTheNextLatch : ∃ s1 s2, Coherent vec ∧ NoReset [0x4002#16, 0x2200#16] ∧
    NoLatch [0x4002#16, 0x2200#16] ∧ exec .rdSnapSeq vec = .next s1 ∧ runWords [0x4002#16, 0x2200#16] s1 = .next s2 :=
  ⟨_, _, by unfold Coherent; decide, noReset_of_all (by decide), noLatch_of_all (by decide), rfl, run_after (by decide)⟩
theorem witness_SnapshotReadsZeroBeforeTheFirstLatch : ∃ s1 s2, resets 0x8000#16 = true ∧
    step (present 0x8000#16 vec) = .next s1 ∧ NoReset [0x4001#16] ∧ NoLatch [0x4001#16] ∧
    runWords [0x4001#16] s1 = .next s2 :=
  ⟨_, _, by decide, step_after (by decide), noReset_of_all (by decide), noLatch_of_all (by decide), run_after (by decide)⟩
/-- A press falls between the first and the second byte, and the high bytes agree. -/
theorem witness_DoubleReadReturnsAHeldCount : ∃ s1 s2 s3 s4 s5, NoReset [0x4001#16] ∧ NoReset [0x4000#16] ∧
    exec .rdCountHi (nearPress 0x0110#16) = .next s1 ∧ runWords [0x4001#16] s1 = .next s2 ∧
    exec .rdCountLo s2 = .next s3 ∧ runWords [0x4000#16] s3 = .next s4 ∧ exec .rdCountHi s4 = .next s5 ∧
    pressTotal [0x4001#16] s1 + pressTotal [0x4000#16] s3 ≤ 65280 ∧ s1.out.rdata = s5.out.rdata :=
  ⟨_, _, _, _, _, noReset_of_all (by decide), noReset_of_all (by decide), rfl, run_after (by decide), rfl,
    run_after (by decide), rfl, by decide +kernel, by decide +kernel⟩
/-- Seven released samples from Down with the newest sample 1. -/
theorem witness_ShortExcursionsChangeNothing : NoReset (List.replicate 7 0x4000#16) ∧
    runWords (List.replicate 7 0x4000#16) vec = .next (after (List.replicate 7 0x4000#16) vec) ∧
    (vec.eng.hist.get .dpadLeft).getLsbD 0 = decide (vec.eng.st.get .dpadLeft = .down) ∧
    (ticksOf (List.replicate 7 0x4000#16)).length < 8 :=
  ⟨noReset_of_all (by decide), run_after (by decide), by decide, by decide⟩
/-- Eight pressed samples from Up with the newest sample 0, and eight released ones from Down with the newest 1. -/
theorem witness_EightEqualSamplesSettleTheState :
    (NoReset (List.replicate 8 0x4001#16) ∧
      runWords (List.replicate 8 0x4001#16) atReset = .next (after (List.replicate 8 0x4001#16) atReset) ∧
      (∀ x ∈ samplesOf atReset.cfg.pol .dpadLeft (List.replicate 8 0x4001#16), x = true) ∧
      8 ≤ (ticksOf (List.replicate 8 0x4001#16)).length ∧
      (atReset.eng.hist.get .dpadLeft).getLsbD 0 = !true ∧ atReset.eng.st.get .dpadLeft = .up) ∧
    (NoReset (List.replicate 8 0x4000#16) ∧
      runWords (List.replicate 8 0x4000#16) vec = .next (after (List.replicate 8 0x4000#16) vec) ∧
      (∀ x ∈ samplesOf vec.cfg.pol .dpadLeft (List.replicate 8 0x4000#16), x = false) ∧
      (vec.eng.hist.get .dpadLeft).getLsbD 0 = !false ∧ vec.eng.st.get .dpadLeft = .down) :=
  ⟨⟨noReset_of_all (by decide), run_after (by decide), by decide, by decide, by decide, by decide⟩,
    noReset_of_all (by decide), run_after (by decide), by decide, by decide, by decide⟩

end Sys2Proof.Tests
end

section
/-! PROOFS. The parameters of the instance (rule R7): neither taking a word nor performing it writes `cfg`. -/

namespace Sys2Proof.Machine

@[simp] theorem fetch_cfg (s : State) : (fetch s).2.cfg = s.cfg := by
  obtain ⟨w, ws, -, hf⟩ | ⟨-, hf⟩ := fetch_spec s <;> rw [hf]

/-- Any step, whether its word was listed or drawn from the environment, keeps the parameters. -/
theorem step_cfg {s t : State} (h : step s = .next t) : t.cfg = s.cfg := by
  rw [step_eq_present] at h
  obtain ⟨hcfg, -, -⟩ := step_rest h
  exact hcfg.trans (fetch_cfg s)

/-- The parameters at the end of a run are those at its start, by the invariant `cfg = s.cfg`. -/
theorem runWords_cfg {ws : List Word} {s t : State} (h : runWords ws s = .next t) : t.cfg = s.cfg := by
  refine runWords_keeps (P := fun _ => True) (Inv := fun u => u.cfg = s.cfg) ?_ ws s t
    (fun _ _ => trivial) h rfl
  intro w u v _ hstep hu
  obtain ⟨hcfg, -, -⟩ := step_rest hstep
  exact hcfg.trans hu

/-- Settles O44: every step keeps the parameters, and so, by the invariant along the run, does every run. -/
theorem parametersNeverChange : Obligations.ParametersNeverChange :=
  ⟨fun _ _ => step_cfg, fun _ _ _ => runWords_cfg⟩

end Sys2Proof.Machine
end

section
/-! PROOFS. Ownership of the state elements (rule R35) and their reset values (rule R37). A well-formed row of the
opcode table and its `Operation` name each other, so what a row writes is read from the five shapes of `effect`. -/

namespace Sys2Proof.Machine

/-! ### Rows and operations -/

/-- A well-formed row is the row its operation selects: a read covers only the offsets that decode to it. -/
theorem toInstr_ofInstr {i : Instr} (h : i.WellFormed) : (Operation.ofInstr i).toInstr = i := by
  cases i with
  | rdRsvd0607 a => revert a; decide
  | rdRsvd0E0F a => revert a; decide
  | rdRsvd1417 a => revert a; decide
  | rdRsvd181F a => revert a; decide
  | rdRsvd203F a => revert a; decide
  | _ => rfl

theorem ofInstr_toInstr (o : Operation) : Operation.ofInstr o.toInstr = o := by
  cases o with
  | rd a => exact ofInstr_decodeRead a
  | _ => rfl

theorem exec_toInstr (o : Operation) (s : State) : exec o.toInstr s = .next (effect o s) := by
  rw [exec_eq_effect, ofInstr_toInstr]

/-! ### Who writes what -/

/-- The engine's registers are written by a step of the Tick agent and by RST only. -/
theorem effect_eng_of_not_tick {o : Operation} (hTick : Agent.tick ∉ agentsOf o.toInstr) (hRst : o ≠ .rst)
    (s : State) : (effect o s).eng = s.eng := by
  cases o with
  | nop => exact idleStep_eng s
  | rd a => exact readStep_eng a s
  | tick r => exact absurd (List.mem_singleton_self _) hTick
  | tickRd r a => exact absurd List.mem_cons_self hTick
  | rst => exact absurd rfl hRst

/-- LAT is written by a read of SNAP_SEQ's offset, alone or before a tick, and by RST only. -/
theorem effect_lat_of_not_latch {o : Operation} (hRst : o ≠ .rst) (hRd : o ≠ .rd 0x10#6)
    (hTickRd : ∀ r, o ≠ .tickRd r 0x10#6) (s : State) : (effect o s).lat = s.lat := by
  cases o with
  | nop => exact idleStep_lat s
  | tick r => exact tickStep_lat r s
  | rd a =>
    have ha : a ≠ 0x10#6 := ne_of_apply_ne Operation.rd hRd
    exact portRead_lat_of_ne ha s.eng s.lat
  | tickRd r a =>
    have ha : a ≠ 0x10#6 := ne_of_apply_ne (Operation.tickRd r) (hTickRd r)
    exact portRead_lat_of_ne ha s.eng s.lat
  | rst => exact absurd rfl hRst

/-- Settles O45: a well-formed row is `o.toInstr` for its operation `o`, and `effect o` writes only what `o` owns. -/
theorem onlyTheOwnerWrites : Obligations.OnlyTheOwnerWrites := by
  intro i s hwf
  obtain ⟨o, rfl⟩ : ∃ o : Operation, o.toInstr = i := ⟨_, toInstr_ofInstr hwf⟩
  refine ⟨effect o s, exec_toInstr o s, fun hTick hRst => ?_, fun hRst hSeq hTickRd => ?_⟩
  · exact effect_eng_of_not_tick hTick (ne_of_apply_ne Operation.toInstr hRst) s
  · exact effect_lat_of_not_latch (ne_of_apply_ne Operation.toInstr hRst)
      (ne_of_apply_ne Operation.toInstr hSeq)
      (fun r => ne_of_apply_ne Operation.toInstr (hTickRd r)) s

/-! ### Reset values -/

/-- Settles O28: the machine's reset state is that of the instance with the open POL and the default IND_MODE, and
each element's reset value is the one its law states. -/
theorem resetValues : Obligations.ResetValues := by
  refine ⟨⟨{ pol := Config.pol, indMode := Config.indMode }, rfl⟩, fun cfg => ?_⟩
  rw [resetWith_eng, resetWith_lat]
  exact ⟨fun b => ⟨reset_hist_get b, reset_st_get b⟩, reset_count, reset_hbLvl, reset_prLvl, reset_pub, rfl⟩

end Sys2Proof.Machine
end

section
/-! PROOFS. The encoding (30_encoding.md). A word is read once, as an `Operation`: decoding, the canonical words and the
opcode table are each said in terms of `operationOf` and `Operation.enc`. -/

namespace Sys2Proof.Machine

/-! ### The operation of a word, one equation for each row of the operation map (rule R68) -/

theorem operationOf_rst {w : Word} (hRst : rstBit w = true) : operationOf w = .rst := by
  simp [operationOf, hRst]

theorem operationOf_nop {w : Word} (hRst : rstBit w = false) (hTick : tickBit w = false) (hRd : rdBit w = false) :
    operationOf w = .nop := by simp [operationOf, hRst, hTick, hRd]

theorem operationOf_tick {w : Word} (hRst : rstBit w = false) (hTick : tickBit w = true) (hRd : rdBit w = false) :
    operationOf w = .tick (rawField w) := by simp [operationOf, hRst, hTick, hRd]

theorem operationOf_rd {w : Word} (hRst : rstBit w = false) (hTick : tickBit w = false) (hRd : rdBit w = true) :
    operationOf w = .rd (addrField w) := by simp [operationOf, hRst, hTick, hRd]

theorem operationOf_tickRd {w : Word} (hRst : rstBit w = false) (hTick : tickBit w = true) (hRd : rdBit w = true) :
    operationOf w = .tickRd (rawField w) (addrField w) := by simp [operationOf, hRst, hTick, hRd]

/-- The operation is read from RST and, where RST is 0, from TICK, RD and the operands these use. -/
theorem operationOf_congr {w v : Word} (hRst : rstBit w = rstBit v)
    (hRest : rstBit w = false → tickBit w = tickBit v ∧ rdBit w = rdBit v ∧
      (rdBit w = true → addrField w = addrField v) ∧ (tickBit w = true → rawField w = rawField v)) :
    operationOf w = operationOf v := by
  cases h : rstBit w
  · obtain ⟨hTick, hRd, hAddr, hRaw⟩ := hRest h
    cases ht : tickBit w <;> cases hd : rdBit w <;> simp_all [operationOf]
  · rw [operationOf_rst h, operationOf_rst (hRst ▸ h)]

/-! ### Decoding and encoding by the operation -/

/-- The decoder answers the row of the word's operation, unless the word is reserved (rules R70, R75). -/
theorem decode_eq (w : Word) :
    decode w = if rsvBit w then .error .reservedBit12 else .ok (operationOf w).toInstr := by
  unfold decode operationOf
  cases rsvBit w <;> cases rstBit w <;> cases tickBit w <;> cases rdBit w <;> rfl

theorem decode_eq_ok_iff {w : Word} {i : Instr} :
    decode w = .ok i ↔ rsvBit w = false ∧ (operationOf w).toInstr = i := by
  cases h : rsvBit w <;> simp [decode_eq, h]

theorem decode_of_not_rsv {w : Word} (h : rsvBit w = false) : decode w = .ok (operationOf w).toInstr :=
  decode_eq_ok_iff.mpr ⟨h, rfl⟩

theorem enc_ofInstr (i : Instr) : (Operation.ofInstr i).enc = encode i := by
  cases i <;> rfl

theorem encode_toInstr (o : Operation) : encode o.toInstr = o.enc := by
  rw [← enc_ofInstr, ofInstr_toInstr]

/-! ### The fields of a word (rule R63) -/

theorem addrField_or (w v : Word) : addrField (w ||| v) = addrField w ||| addrField v := BitVec.extractLsb'_or
theorem rawField_or (w v : Word) : rawField (w ||| v) = rawField w ||| rawField v := BitVec.extractLsb'_or
theorem addrField_and (w v : Word) : addrField (w &&& v) = addrField w &&& addrField v := BitVec.extractLsb'_and
theorem rawField_and (w v : Word) : rawField (w &&& v) = rawField w &&& rawField v := BitVec.extractLsb'_and

@[simp] theorem addrField_addrBits (a : Offset) : addrField (addrBits a) = a := by revert a; decide
@[simp] theorem addrField_rawBits (r : RawLevels) : addrField (rawBits r) = 0#6 := by revert r; decide
@[simp] theorem rawField_addrBits (a : Offset) : rawField (addrBits a) = 0#6 := by revert a; decide
@[simp] theorem rawField_rawBits (r : RawLevels) : rawField (rawBits r) = r := by revert r; decide

/-- Bits 15 to 12 of a word are its four flags. -/
theorem and_flagMask (w : Word) :
    w &&& 0xF000#16 = (if rstBit w then 0x8000#16 else 0#16) ||| (if tickBit w then 0x4000#16 else 0#16) |||
      (if rdBit w then 0x2000#16 else 0#16) ||| (if rsvBit w then 0x1000#16 else 0#16) := by
  have hmask : 0xF000#16 = .twoPow 16 15 ||| .twoPow 16 14 ||| .twoPow 16 13 ||| .twoPow 16 12 := by decide
  simp only [hmask, BitVec.and_or_distrib_left, BitVec.and_twoPow]
  rfl

theorem addrBits_addrField (w : Word) : addrBits (addrField w) = w &&& 0x0FC0#16 := by
  have hmask : ∀ k < 16, (0x0FC0#16).getLsbD k = (decide (6 ≤ k) && decide (k < 12)) := by decide
  refine BitVec.eq_of_getLsbD_eq fun k hk => ?_
  rw [BitVec.getLsbD_and, hmask k hk]
  simp only [addrBits, addrField, BitVec.getLsbD_shiftLeft, BitVec.getLsbD_setWidth, BitVec.getLsbD_extractLsb']
  grind

theorem rawBits_rawField (w : Word) : rawBits (rawField w) = w &&& 0x003F#16 := by
  have hmask : ∀ k < 16, (0x003F#16).getLsbD k = decide (k < 6) := by decide
  refine BitVec.eq_of_getLsbD_eq fun k hk => ?_
  rw [BitVec.getLsbD_and, hmask k hk]
  simp [rawBits, rawField, hk, Bool.and_comm]

theorem getLsbD_of_and_eq {w m b : Word} (h : w &&& m = b) {k : Nat} (hk : m.getLsbD k = true) :
    w.getLsbD k = b.getLsbD k := by
  rw [← h, BitVec.getLsbD_and, hk, Bool.and_true]

/-! ### Rows of the opcode table (rule R79) -/

theorem row_mem_opcodeTable (i : Instr) : i.row ∈ opcodeTable := by
  cases i <;> simp [opcodeTable, Instr.row]

/-- The canonical word of an operation selects the operation's row. -/
theorem enc_and_rowMask (o : Operation) : o.enc &&& o.toInstr.row.mask = o.toInstr.row.bits := by
  cases o with
  | nop => rfl
  | tick r => exact eq_of_beq (Laws.EncodesToItsRow.tick r rfl)
  | rd a => revert a; decide
  | tickRd r a => exact eq_of_beq (Laws.EncodesToItsRow.tickRd r a rfl)
  | rst => rfl

/-- Every row asks for bit 12 to be 0, so no row takes a reserved word (rule R70). -/
theorem rsvBit_eq_false_of_selected {row : OpRow} (hrow : row ∈ opcodeTable) {w : Word}
    (hw : w &&& row.mask = row.bits) : rsvBit w = false := by
  have hbit12 : ∀ row ∈ opcodeTable, row.mask.getLsbD 12 = true ∧ row.bits.getLsbD 12 = false := by decide
  obtain ⟨hmask, hbits⟩ := hbit12 row hrow
  exact (getLsbD_of_and_eq hw hmask).trans hbits

/-- Two rows that ask for different values of a bit both look at select no word in common. -/
theorem not_selects_both {p q : OpRow} (h : p.bits &&& q.mask ≠ q.bits &&& p.mask) (w : Word) :
    ¬(w &&& p.mask = p.bits ∧ w &&& q.mask = q.bits) := by
  rintro ⟨hp, hq⟩
  apply h
  rw [← hp, ← hq, BitVec.and_assoc, BitVec.and_assoc, BitVec.and_comm p.mask]

/-! ### Canonical words (rules R67, R74) -/

theorem rsvBit_enc (o : Operation) : rsvBit o.enc = false :=
  rsvBit_eq_false_of_selected (row_mem_opcodeTable o.toInstr) (enc_and_rowMask o)

theorem operationOf_enc (o : Operation) : operationOf o.enc = o := by
  cases o with
  | nop => rfl
  | tick r => revert r; decide
  | rd a => revert a; decide
  | tickRd r a =>
    have hrow : (Operation.tickRd r a).enc &&& 0xF000#16 = 0x6000#16 := enc_and_rowMask (.tickRd r a)
    have hAddr : addrField (Operation.tickRd r a).enc = a := by
      simp [Operation.enc, addrField_or, show addrField 0x6000#16 = 0#6 from rfl]
    have hRaw : rawField (Operation.tickRd r a).enc = r := by
      simp [Operation.enc, rawField_or, show rawField 0x6000#16 = 0#6 from rfl]
    rw [operationOf_tickRd (getLsbD_of_and_eq hrow rfl) (getLsbD_of_and_eq hrow rfl) (getLsbD_of_and_eq hrow rfl),
      hAddr, hRaw]
  | rst => rfl

theorem and_usedMask_of_not_rst {w : Word} (h : rstBit w = false) :
    w &&& usedMask w = (w &&& 0xF000#16) ||| (if rdBit w then addrBits (addrField w) else 0#16) |||
      (if tickBit w then rawBits (rawField w) else 0#16) := by
  rw [usedMask, if_neg (by simp [h]), BitVec.and_or_distrib_left, BitVec.and_or_distrib_left]
  cases rdBit w <;> cases tickBit w <;> simp [addrBits_addrField, rawBits_rawField]

/-- The canonical word of a word's operation is the word with its don't-care bits 0. -/
theorem enc_operationOf {w : Word} (h : rsvBit w = false) : (operationOf w).enc = w &&& usedMask w := by
  cases hRst : rstBit w
  · rw [and_usedMask_of_not_rst hRst, and_flagMask, h, hRst]
    cases ht : tickBit w <;> cases hd : rdBit w <;> simp [operationOf, Operation.enc, hRst, ht, hd]
  · have hmask : 0x9000#16 = 0xF000#16 &&& 0x9000#16 := by decide
    rw [operationOf_rst hRst, usedMask, if_pos hRst, hmask, ← BitVec.and_assoc, and_flagMask, h, hRst]
    cases tickBit w <;> cases rdBit w <;> rfl

/-- A canonical word has no don't-care bit set. -/
theorem enc_and_usedMask (o : Operation) : o.enc &&& usedMask o.enc = o.enc := by
  rw [← enc_operationOf (rsvBit_enc o), operationOf_enc]

theorem addrField_eq_zero_of_canonical {w : Word} (hw : w &&& usedMask w = w) (hRst : rstBit w = false)
    (hRd : rdBit w = false) : addrField w = 0#6 := by
  have hmask : addrField (usedMask w) = 0#6 := by
    cases ht : tickBit w <;> simp [usedMask, hRst, hRd, ht] <;> rfl
  rw [← hw, addrField_and, hmask, BitVec.and_zero]

theorem rawField_eq_zero_of_canonical {w : Word} (hw : w &&& usedMask w = w) (hRst : rstBit w = false)
    (hTick : tickBit w = false) : rawField w = 0#6 := by
  have hmask : rawField (usedMask w) = 0#6 := by
    cases hd : rdBit w <;> simp [usedMask, hRst, hTick, hd] <;> rfl
  rw [← hw, rawField_and, hmask, BitVec.and_zero]

theorem enc_eq_of_rstBit {o : Operation} (hRst : rstBit o.enc = true) : o.enc = 0x8000#16 := by
  have ho : o = .rst := (operationOf_enc o).symm.trans (operationOf_rst hRst)
  rw [ho]
  rfl

/-- Settles O3: decoding reads a word through `operationOf`, which uses no don't-care field; and a canonical word has
none of its don't-care bits set. -/
theorem dontCareFieldsAreIgnored : Obligations.DontCareFieldsAreIgnored := by
  refine ⟨fun w v hRsv hRst hRest => ?_, fun i _ => ?_⟩
  · have hRsv' : rsvBit w = rsvBit v := hRsv
    rw [decode_eq, decode_eq, hRsv', operationOf_congr hRst hRest]
  · rw [← enc_ofInstr]
    have hw := enc_and_usedMask (Operation.ofInstr i)
    exact ⟨addrField_eq_zero_of_canonical hw, rawField_eq_zero_of_canonical hw, enc_eq_of_rstBit⟩

/-! ### The rows that words select (rule R79) -/

/-- The bits of its word that an operation uses (rule R67). -/
def Operation.usedBits : Operation → Word
  | .nop => 0xF000#16
  | .tick _ => 0xF03F#16
  | .rd _ => 0xFFC0#16
  | .tickRd _ _ => 0xFFFF#16
  | .rst => 0x9000#16

theorem usedMask_eq (w : Word) : usedMask w = (operationOf w).usedBits := by
  unfold usedMask operationOf
  cases rstBit w <;> cases tickBit w <;> cases rdBit w <;> rfl

/-- The mask of an operation's row holds only bits that the operation uses. -/
theorem usedBits_and_rowMask (o : Operation) : o.usedBits &&& o.toInstr.row.mask = o.toInstr.row.mask := by
  cases o with
  | nop => rfl
  | tick r => exact (by decide : 0xF03F#16 &&& 0xF000#16 = 0xF000#16)
  | rd a => revert a; decide
  | tickRd r a => exact (by decide : 0xFFFF#16 &&& 0xF000#16 = 0xF000#16)
  | rst => rfl

theorem row_of_operationOf_selected {w : Word} (h : rsvBit w = false) :
    w &&& (operationOf w).toInstr.row.mask = (operationOf w).toInstr.row.bits := by
  rw [← enc_and_rowMask, enc_operationOf h, BitVec.and_assoc, usedMask_eq, usedBits_and_rowMask]

/-- Settles O6: any two rows differ on a bit of both masks, every row asks for bit 12 to be 0, and a word with bit 12
clear selects the row of its operation. -/
theorem opcodeRowsPartitionTheWords : Obligations.OpcodeRowsPartitionTheWords := by
  have hdiffer : opcodeTable.Pairwise fun p q => p.bits &&& q.mask ≠ q.bits &&& p.mask := by decide
  refine ⟨rfl, by decide, by decide, hdiffer.imp not_selects_both, fun w => ⟨fun hnone => ?_, ?_⟩, ?_⟩
  · by_contra h
    exact hnone _ (row_mem_opcodeTable _) (row_of_operationOf_selected (Bool.eq_false_iff.mpr h))
  · intro h row hrow hw
    exact Bool.noConfusion (h.symm.trans (rsvBit_eq_false_of_selected hrow hw))
  · intro w i h
    obtain ⟨hRsv, rfl⟩ := decode_eq_ok_iff.mp h
    exact ⟨row_mem_opcodeTable _, row_of_operationOf_selected hRsv⟩

/-! ### The operation map, the canonical words and the refusal (rules R68, R70, R74) -/

/-- Settles O4: the decoder answers the row of the word's operation, which the flags select. -/
theorem decodeFollowsTheOperationMap : Obligations.DecodeFollowsTheOperationMap := by
  intro w
  refine ⟨fun hRsv => (decode_eq w).trans (if_pos hRsv), fun hRsv hRst => ?_, fun hRsv hRst => ?_⟩
  · rw [decode_of_not_rsv hRsv, operationOf_rst hRst]; rfl
  rw [decode_of_not_rsv hRsv]
  refine ⟨fun hTick hRd => ?_, fun hTick hRd => ?_, fun hTick hRd => ?_, fun hTick hRd => ?_⟩
  · rw [operationOf_nop hRst hTick hRd]; rfl
  · rw [operationOf_tick hRst hTick hRd]; rfl
  · rw [operationOf_rd hRst hTick hRd]
    exact ⟨_, rfl, ofInstr_toInstr _⟩
  · rw [operationOf_tickRd hRst hTick hRd]; rfl

/-- Settles O8: the canonical word of a read's row is that of the read, whatever row its offset selects. -/
theorem canonicalEncodings : Obligations.CanonicalEncodings :=
  ⟨rfl, fun _ => rfl, fun a => encode_toInstr (.rd a), fun _ _ => rfl, rfl, rfl, rfl, rfl⟩

/-- Settles O12: a step on a presented word is a refusal where bit 12 is set. -/
theorem reservedWordIsRefused : Obligations.ReservedWordIsRefused := fun s w hRsv =>
  (step_present_eq w s).trans (if_pos hRsv)

end Sys2Proof.Machine
end

section
/-! PROOFS. Printing and assembling (rules R76, R78). An operation's line is a few tokens with blanks and a comma
between them, and `lineWords` gives the tokens back. -/

namespace Sys2Proof.Machine

/-! ### Tokens -/

/-- A character that neither ends a word of a line nor starts a comment. -/
def isTokenChar (c : Char) : Bool := c != ' ' && c != '\t' && c != ',' && c != ';'

/-- A nonempty run of such characters: one word of a line. -/
def isToken (cs : List Char) : Bool := !cs.isEmpty && cs.all isTokenChar

theorem lineWords_tokenChars {cs : List Char} (h : cs.all isTokenChar = true) (acc rest : List Char) :
    lineWords acc (cs ++ rest) = lineWords (acc ++ cs) rest := by
  induction cs generalizing acc with
  | nil => simp
  | cons c cs ih =>
    obtain ⟨hc, hcs⟩ : isTokenChar c = true ∧ cs.all isTokenChar = true := by simpa using h
    have hstep : lineWords acc (c :: (cs ++ rest)) = lineWords (acc ++ [c]) (cs ++ rest) := by
      simp_all [lineWords, isTokenChar]
    rw [List.cons_append, hstep, ih hcs, List.append_assoc, List.singleton_append]

theorem lineWords_token {cs : List Char} (h : isToken cs = true) (rest : List Char) :
    lineWords [] (cs ++ rest) = lineWords cs rest ∧ cs.isEmpty = false := by
  obtain ⟨hne, hall⟩ : cs.isEmpty = false ∧ cs.all isTokenChar = true := by simpa [isToken] using h
  exact ⟨lineWords_tokenChars hall [] rest, hne⟩

theorem lineWords_token_end {cs : List Char} (h : isToken cs = true) : lineWords [] cs = [cs] := by
  obtain ⟨hcs, hne⟩ := lineWords_token h []
  rw [← List.append_nil cs, hcs]
  simp [lineWords, hne]

theorem lineWords_token_blank {cs : List Char} (h : isToken cs = true) (rest : List Char) :
    lineWords [] (cs ++ ' ' :: rest) = cs :: lineWords [] rest := by
  obtain ⟨hcs, hne⟩ := lineWords_token h (' ' :: rest)
  rw [hcs]
  simp [lineWords, hne]

theorem lineWords_token_comma {cs : List Char} (h : isToken cs = true) (rest : List Char) :
    lineWords [] (cs ++ ',' :: rest) = cs :: [','] :: lineWords [] rest := by
  obtain ⟨hcs, hne⟩ := lineWords_token h (',' :: rest)
  rw [hcs]
  simp [lineWords, hne]

/-! ### Operands -/

theorem isToken_binaryText (r : RawLevels) : isToken (binaryText r) = true := by revert r; decide
theorem isToken_offsetText (a : Offset) : isToken (offsetText a) = true := by revert a; decide
theorem parseRaw_binaryText (r : RawLevels) : parseRaw (binaryText r) = some r := by revert r; decide
theorem parseOffset_offsetText (a : Offset) : parseOffset (offsetText a) = some a := by revert a; decide

/-! ### Lines -/

/-- The words of an operation's line. -/
def Operation.words : Operation → List (List Char)
  | .nop => ["NOP".toList]
  | .tick r => ["TICK".toList, binaryText r]
  | .rd a => ["RD".toList, offsetText a]
  | .tickRd r a => ["TICK.RD".toList, binaryText r, [','], offsetText a]
  | .rst => ["RST".toList]

theorem text_tick (r : RawLevels) : (Operation.tick r).text = "TICK".toList ++ ' ' :: binaryText r := rfl
theorem text_rd (a : Offset) : (Operation.rd a).text = "RD".toList ++ ' ' :: offsetText a := rfl
theorem text_tickRd (r : RawLevels) (a : Offset) :
    (Operation.tickRd r a).text = "TICK.RD".toList ++ ' ' :: (binaryText r ++ ',' :: ' ' :: offsetText a) := rfl

theorem lineWords_text (o : Operation) : lineWords [] o.text = o.words := by
  cases o with
  | nop => rfl
  | tick r =>
    rw [text_tick, lineWords_token_blank rfl, lineWords_token_end (isToken_binaryText r)]; rfl
  | rd a =>
    rw [text_rd, lineWords_token_blank rfl, lineWords_token_end (isToken_offsetText a)]; rfl
  | tickRd r a =>
    have hblank (cs : List Char) : lineWords [] (' ' :: cs) = lineWords [] cs := rfl
    rw [text_tickRd, lineWords_token_blank rfl, lineWords_token_comma (isToken_binaryText r), hblank,
      lineWords_token_end (isToken_offsetText a)]; rfl
  | rst => rfl

theorem no_semicolon_of_isToken {cs : List Char} (h : isToken cs = true) :
    (cs.all fun c => c != ';') = true := by
  simp_all [isToken, isTokenChar]

/-- No operation's line holds a comment sign. -/
theorem no_semicolon_text (o : Operation) : (o.text.all fun c => c != ';') = true := by
  cases o with
  | nop => decide
  | tick r =>
    rw [text_tick, List.all_append, List.all_cons, no_semicolon_of_isToken (isToken_binaryText r)]; decide
  | rd a =>
    rw [text_rd, List.all_append, List.all_cons, no_semicolon_of_isToken (isToken_offsetText a)]; decide
  | tickRd r a =>
    rw [text_tickRd, List.all_append, List.all_cons, List.all_append, List.all_cons, List.all_cons,
      no_semicolon_of_isToken (isToken_binaryText r), no_semicolon_of_isToken (isToken_offsetText a)]; decide
  | rst => decide

/-- A line of two words is a TICK or an RD. -/
theorem parseLine_of_two_words {line m x : List Char} (h : lineWords [] (line.takeWhile fun c => c != ';') = [m, x]) :
    parseLine line =
      if m == "TICK".toList then AsmLine.ofOption ((parseRaw x).map .tick)
      else if m == "RD".toList then AsmLine.ofOption ((parseOffset x).map .rd)
      else .illFormed := by
  rw [parseLine, h]

/-- A line of four words is a TICK.RD. -/
theorem parseLine_of_four_words {line m x c y : List Char}
    (h : lineWords [] (line.takeWhile fun c => c != ';') = [m, x, c, y]) :
    parseLine line =
      if m == "TICK.RD".toList && c == [','] then
        AsmLine.ofOption ((parseRaw x).bind fun r => (parseOffset y).map fun a => .tickRd r a)
      else .illFormed := by
  rw [parseLine, h]

theorem parseLine_text (o : Operation) : parseLine o.text = .operation o := by
  have hwords : lineWords [] (o.text.takeWhile fun c => c != ';') = o.words := by
    rw [List.takeWhile_eq_self_iff.mpr (List.all_eq_true.mp (no_semicolon_text o)), lineWords_text]
  cases o with
  | nop => decide
  | tick r =>
    rw [parseLine_of_two_words hwords, if_pos (by decide), parseRaw_binaryText]; rfl
  | rd a =>
    rw [parseLine_of_two_words hwords, if_neg (by decide), if_pos (by decide), parseOffset_offsetText]; rfl
  | tickRd r a =>
    rw [parseLine_of_four_words hwords, if_pos (by decide), parseRaw_binaryText, parseOffset_offsetText]; rfl
  | rst => decide

theorem printWord_of_not_rsv {w : Word} (h : rsvBit w = false) : printWord w = some (operationOf w).text := by
  simp [printWord, decode_of_not_rsv h, ofInstr_toInstr]

/-- Settles O9: a line parses to its operation, and a word prints as its operation's line, whose canonical word is the
word with its don't-care bits 0. -/
theorem printingInvertsAssembling : Obligations.PrintingInvertsAssembling := by
  refine ⟨parseLine_text, fun w hRsv => ?_, by decide⟩
  exact ⟨_, operationOf w, printWord_of_not_rsv hRsv, parseLine_text _, enc_operationOf hRsv⟩

end Sys2Proof.Machine
end

section
/-! PROOFS. The debounce tick (40_debounce_tick.md). What TICK and TICK.RD share is said once (`exec_ticks`), the
transition table case by case, and the loop of rule R80 one lane at a time: the body for button b changes the lane of
b alone, so a loop that visits each button once leaves each lane after its own body. -/

namespace Sys2Proof.Machine

/-! ### The bits of the two-valued types -/

theorem polarity_bit_eq (p : Polarity) : p.bit = decide (p = .activeLow) := by cases p <;> rfl

theorem logicalState_bit_eq (st : LogicalState) : st.bit = decide (st = .down) := by cases st <;> rfl

/-! ### What TICK and TICK.RD share -/

/-- Both operations run the engine on the state from before them; their outputs differ at most in `rdata`. -/
theorem exec_ticks {i : Instr} {r : RawLevels} {a : Offset} (hi : i = .tick r ∨ i = .tickRd r a) (s : State) :
    ∃ t v, exec i s = .next t ∧ t.eng = tickEngine s.cfg.pol r s.eng ∧ t.out = tickOutputs v s.cfg.pol r s.eng := by
  obtain rfl | rfl := hi
  · exact ⟨tickStep r s, 0x00#8, exec_eq_effect _ s, tickStep_eng r s, tickStep_out r s⟩
  · exact ⟨tickReadStep r a s, (portRead a s.eng s.lat).1, exec_eq_effect _ s, tickReadStep_eng r a s,
      tickReadStep_out r a s⟩

/-! ### The press counter -/

theorem tickCount_toNat (pol : PerButton Polarity) (r : RawLevels) (e : Engine) :
    (tickCount pol r e).toNat = (e.count.toNat + popcount6 (tickPressEv pol r e)) % 65536 := by
  simp [tickCount]

theorem tickPrLvl_ne_iff (pol : PerButton Polarity) (r : RawLevels) (e : Engine) :
    tickPrLvl pol r e ≠ e.prLvl ↔ popcount6 (tickPressEv pol r e) % 2 = 1 := by
  rw [tickPrLvl]
  cases e.prLvl <;> simp

/-! ### The transition table (rules R85, R86, R87) -/

theorem lane_of_press {h : Byte} {st : LogicalState} (hp : h = 0xFF#8 ∧ st = .up) :
    nextLogical h st = .down ∧ isPress h st = true ∧ isRelease h st = false := by
  obtain ⟨rfl, rfl⟩ := hp
  decide

theorem lane_of_release {h : Byte} {st : LogicalState} (hr : h = 0x00#8 ∧ st = .down) :
    nextLogical h st = .up ∧ isPress h st = false ∧ isRelease h st = true := by
  obtain ⟨rfl, rfl⟩ := hr
  decide

theorem lane_of_neither {h : Byte} {st : LogicalState} (hp : ¬(h = 0xFF#8 ∧ st = .up))
    (hr : ¬(h = 0x00#8 ∧ st = .down)) :
    nextLogical h st = st ∧ isPress h st = false ∧ isRelease h st = false := by
  have hPress : isPress h st = false := Bool.eq_false_iff.mpr fun hc => hp (isPress_eq_true.mp hc)
  have hRelease : isRelease h st = false := Bool.eq_false_iff.mpr fun hc => hr (isRelease_eq_true.mp hc)
  exact ⟨by simp [nextLogical, hPress, hRelease], hPress, hRelease⟩

/-! ### The clauses of the tick -/

/-- Settles O16: the history after the tick is `shiftIn` of the sample, whose bits its laws give. -/
theorem tickShiftsTheSampleIn : Obligations.TickShiftsTheSampleIn := by
  intro i r a s hi
  obtain ⟨t, v, hexec, heng, -⟩ := exec_ticks hi s
  refine ⟨t, hexec, fun b => ?_⟩
  rw [heng, tickEngine_hist, tickHist_get]
  refine ⟨?_, shiftIn_getLsbD_succ _ _⟩
  rw [shiftIn_getLsbD_zero, sample, rawLevel, polarity_bit_eq]

/-- Settles O17: the three cases of the table, on the history after the tick and the state before it. -/
theorem tickFollowsTheTransitionTable : Obligations.TickFollowsTheTransitionTable := by
  intro i r a s hi
  obtain ⟨t, v, hexec, heng, hout⟩ := exec_ticks hi s
  refine ⟨t, hexec, fun b => ?_⟩
  simp only [heng, hout, tickEngine_hist, tickEngine_st, tickOutputs_pressEv, tickOutputs_releaseEv,
    tickHist_get, tickSt_get, tickPressEv_getLsbD, tickReleaseEv_getLsbD]
  split
  next hp => exact lane_of_press hp
  next hp =>
    split
    next hr => exact lane_of_release hr
    next hr => exact lane_of_neither hp hr

/-- Settles O18: the number of buttons with a press event is the popcount that `tickCount` adds. -/
theorem tickAddsThePressEvents : Obligations.TickAddsThePressEvents := by
  intro i r a s hi
  obtain ⟨t, v, hexec, heng, hout⟩ := exec_ticks hi s
  refine ⟨t, hexec, ?_⟩
  rw [heng, hout, tickOutputs_pressEv, ← popcount6_eq_buttons]
  exact ⟨popcount6_le _, tickCount_toNat _ _ _⟩

/-- Settles O19: PR_LVL is toggled by the parity of that number, and HB_LVL and `hb_pulse` do not depend on it. -/
theorem tickTogglesTheIndicatorLevels : Obligations.TickTogglesTheIndicatorLevels := by
  intro i r a s hi
  obtain ⟨t, v, hexec, heng, hout⟩ := exec_ticks hi s
  refine ⟨t, hexec, ?_⟩
  rw [heng, hout, tickOutputs_pressEv, ← popcount6_eq_buttons]
  exact ⟨tickEngine_hbLvl _ _ _, tickOutputs_hbPulse _ _ _ _, tickPrLvl_ne_iff _ _ _⟩

/-- Settles O20: PUB takes the packed states and the count of the same tick. -/
theorem tickPublishesTheSnapshot : Obligations.TickPublishesTheSnapshot := by
  intro i r a s hi
  obtain ⟨t, v, hexec, heng, -⟩ := exec_ticks hi s
  refine ⟨t, hexec, ?_⟩
  rw [heng]
  refine ⟨?_, fun b => ?_, rfl⟩
  · rw [tickEngine_pub_seq, BitVec.toNat_add]; rfl
  · rw [tickEngine_pub_state, packStates_getLsbD, logicalState_bit_eq, tickEngine_st]

/-! ### The loop of the pseudocode (rules R80, R81) -/

/-- One button's share of what the loop carries. -/
structure Lane where
  hist      : Byte
  st        : LogicalState
  pressEv   : Bool
  releaseEv : Bool

/-- The lane of button b. -/
def TickLanes.lane (l : TickLanes) (b : Button) : Lane where
  hist      := l.hist.get b
  st        := l.st.get b
  pressEv   := l.pressEv.get b
  releaseEv := l.releaseEv.get b

theorem TickLanes.ext_lane {l m : TickLanes} (h : ∀ b, l.lane b = m.lane b) : l = m := by
  obtain ⟨hist, st, pressEv, releaseEv⟩ := l
  obtain ⟨hist', st', pressEv', releaseEv'⟩ := m
  obtain rfl : hist = hist' := PerButton.ext_get fun b => congrArg Lane.hist (h b)
  obtain rfl : st = st' := PerButton.ext_get fun b => congrArg Lane.st (h b)
  obtain rfl : pressEv = pressEv' := PerButton.ext_get fun b => congrArg Lane.pressEv (h b)
  obtain rfl : releaseEv = releaseEv' := PerButton.ext_get fun b => congrArg Lane.releaseEv (h b)
  rfl

/-- The lane after the loop's body for its own button, `s` being the sample: the events are set, never cleared. -/
def Lane.after (s : Bool) (x : Lane) : Lane where
  hist      := shiftIn x.hist s
  st        := nextLogical (shiftIn x.hist s) x.st
  pressEv   := x.pressEv || isPress (shiftIn x.hist s) x.st
  releaseEv := x.releaseEv || isRelease (shiftIn x.hist s) x.st

/-- The history that rule R80 writes out. -/
theorem shiftIn_sample (pol : PerButton Polarity) (r : RawLevels) (h : Byte) (b : Button) :
    shiftIn h (sample pol r b) =
      ((h <<< 1) &&& 0xFF#8) ||| (BitVec.ofBool (Bool.xor (rawLevel r b) (pol.get b).bit)).setWidth 8 := rfl

@[simp] theorem perButton_set_get {α : Type} (v : PerButton α) (b : Button) : v.set b (v.get b) = v := by
  cases b <;> rfl

/-- The branches of the loop's body in one: the history always, the state and the events as the lane functions say. -/
theorem tickLane_eq (pol : PerButton Polarity) (r : RawLevels) (l : TickLanes) (b : Button) {h : Byte}
    (hh : h = shiftIn (l.hist.get b) (sample pol r b)) :
    tickLane pol r l b =
      { hist := l.hist.set b h
        st := l.st.set b (nextLogical h (l.st.get b))
        pressEv := l.pressEv.set b (l.pressEv.get b || isPress h (l.st.get b))
        releaseEv := l.releaseEv.set b (l.releaseEv.get b || isRelease h (l.st.get b)) } := by
  simp only [tickLane]
  rw [shiftIn_sample] at hh
  rw [← hh]
  split
  next hp =>
    obtain ⟨hst, hPress, hRelease⟩ := lane_of_press hp
    simp [hst, hPress, hRelease]
  next hp =>
    split
    next hr =>
      obtain ⟨hst, hPress, hRelease⟩ := lane_of_release hr
      simp [hst, hPress, hRelease]
    next hr =>
      obtain ⟨hst, hPress, hRelease⟩ := lane_of_neither hp hr
      simp [hst, hPress, hRelease]

/-- The body for button b changes the lane of b alone. -/
theorem tickLane_lane (pol : PerButton Polarity) (r : RawLevels) (l : TickLanes) (b c : Button) :
    (tickLane pol r l b).lane c = if c = b then (l.lane c).after (sample pol r c) else l.lane c := by
  rw [tickLane_eq pol r l b rfl]
  by_cases hcb : c = b
  · subst hcb
    simp [TickLanes.lane, Lane.after]
  · simp [TickLanes.lane, hcb]

/-- A loop that visits no button twice changes the lanes it visits, each by its own body. -/
theorem foldl_tickLane_lane (pol : PerButton Polarity) (r : RawLevels) {order : List Button} (hOnce : order.Nodup)
    (l : TickLanes) (c : Button) :
    (order.foldl (tickLane pol r) l).lane c =
      if c ∈ order then (l.lane c).after (sample pol r c) else l.lane c := by
  induction order generalizing l with
  | nil => rfl
  | cons b bs ih =>
    obtain ⟨hb, hbs⟩ := List.nodup_cons.mp hOnce
    rw [List.foldl_cons, ih hbs, tickLane_lane]
    by_cases hcb : c = b
    · subst hcb; simp [hb]
    · simp [hcb]

theorem allButtons_nodup : allButtons.Nodup := by decide

/-- A loop over all the buttons, each once, leaves the machine's histories, states and events. -/
theorem tickLanes_eq (pol : PerButton Polarity) (r : RawLevels) {order : List Button} (hOnce : order.Nodup)
    (hAll : ∀ b, b ∈ order) (e : Engine) :
    tickLanes pol r order e =
      { hist := tickHist pol r e
        st := tickSt pol r e
        pressEv := PerButton.ofFn fun b => isPress ((tickHist pol r e).get b) (e.st.get b)
        releaseEv := PerButton.ofFn fun b => isRelease ((tickHist pol r e).get b) (e.st.get b) } := by
  refine TickLanes.ext_lane fun b => ?_
  rw [tickLanes, foldl_tickLane_lane pol r hOnce, if_pos (hAll b)]
  simp [TickLanes.lane, Lane.after]

/-- The pseudocode, over all the buttons in any order, is the machine's tick. -/
theorem tickLoop_eq (pol : PerButton Polarity) (r : RawLevels) {order : List Button} (hOnce : order.Nodup)
    (hAll : ∀ b, b ∈ order) (e : Engine) :
    tickLoop pol r order e = (tickEngine pol r e, tickPressEv pol r e, tickReleaseEv pol r e) := by
  have hHist : (tickLanes pol r order e).hist = tickHist pol r e := by rw [tickLanes_eq pol r hOnce hAll]
  have hSt : (tickLanes pol r order e).st = tickSt pol r e := by rw [tickLanes_eq pol r hOnce hAll]
  have hPress : packBits (tickLanes pol r order e).pressEv = tickPressEv pol r e := by
    rw [tickLanes_eq pol r hOnce hAll]; rfl
  have hRelease : packBits (tickLanes pol r order e).releaseEv = tickReleaseEv pol r e := by
    rw [tickLanes_eq pol r hOnce hAll]; rfl
  have hcount : BitVec.ofNat 16 ((e.count.toNat + popcount6 (tickPressEv pol r e)) % 2 ^ 16) = tickCount pol r e :=
    BitVec.eq_of_toNat_eq (by simp [tickCount_toNat])
  have hseq : BitVec.ofNat 8 ((e.pub.seq.toNat + 1) % 256) = e.pub.seq + 1#8 :=
    BitVec.eq_of_toNat_eq (by simp)
  simp only [tickLoop, hHist, hSt, hPress, hRelease, hcount, hseq, Bool.xor_true]
  rfl

/-- Settles O21: the order 0 to 5 visits each button once, so the pseudocode is the tick that `tickStep` performs. -/
theorem tickFollowsThePseudocode : Obligations.TickFollowsThePseudocode := by
  intro r s
  rw [tickLoop_eq _ _ allButtons_nodup mem_allButtons]
  exact ⟨exec_eq_effect _ s, rfl⟩

end Sys2Proof.Machine
end

section
/-! PROOFS. The reader port (41_reader_port.md). A read is `readStep` at its own offset. Away from SNAP_SEQ's offset that
is `afterRead` with the port's byte (`exec_read`); at it, LAT becomes PUB as well (`readStep_snapSeq`). -/

namespace Sys2Proof.Machine

/-! ### What a read answers (rules R98, R104, R107) -/

theorem exec_of_rd {i : Instr} {a : Offset} (hi : Operation.ofInstr i = .rd a) (s : State) :
    exec i s = .next (readStep a s) := by
  rw [exec_eq_effect, hi]; rfl

/-- Away from SNAP_SEQ's offset a read leaves LAT as it is, so only the outputs and the observation differ. -/
theorem readStep_of_ne {a : Offset} (ha : a ≠ 0x10#6) (s : State) :
    readStep a s = afterRead s a (portByte a s.eng s.lat) := by
  simp [readStep, afterRead, portRead, latchOn, ha, Outputs.idle]

/-- The rule for every read row but SNAP_SEQ's: its offset `a`, and the byte `v` that the port holds there. -/
theorem exec_read {i : Instr} {a : Offset} {s : State} {v : Byte} (hi : Operation.ofInstr i = .rd a)
    (ha : a ≠ 0x10#6) (hv : portByte a s.eng s.lat = v) : exec i s = .next (afterRead s a v) := by
  rw [exec_of_rd hi, readStep_of_ne ha, hv]

theorem portRead_snapSeq (e : Engine) (l : Snapshot) : portRead 0x10#6 e l = (e.pub.seq, e.pub) := rfl

theorem readStep_snapSeq (s : State) :
    readStep 0x10#6 s = { afterRead s 0x10#6 s.eng.pub.seq with lat := s.eng.pub } := rfl

/-! ### The bytes of the port -/

/-- The low byte of a 16-bit count (rule R51). -/
theorem extractLsb'_low_toNat (c : BitVec 16) : (c.extractLsb' 0 8).toNat = c.toNat % 256 := by
  simp

theorem extractLsb'_high_toNat (c : BitVec 16) : (c.extractLsb' 8 8).toNat = c.toNat / 256 := by
  have hc := c.isLt
  simp only [BitVec.extractLsb'_toNat, Nat.shiftRight_eq_div_pow]
  omega

theorem assemble_high_low (c : BitVec 16) : assemble (c.extractLsb' 8 8) (c.extractLsb' 0 8) = c := by
  refine BitVec.eq_of_getLsbD_eq fun k hk => ?_
  rw [assemble, BitVec.getLsbD_append, BitVec.getLsbD_extractLsb', BitVec.getLsbD_extractLsb']
  split
  next hlow => simp [hlow]
  next hhigh => simp [show k - 8 < 8 by omega, show 8 + (k - 8) = k by omega]

/-- A 6-bit value in a byte: its own bits below, 0 in bits 7:6 (rules R28, R108). -/
theorem getLsbD_zext8 (x : BitVec 6) :
    (∀ k < 6, (x.setWidth 8).getLsbD k = x.getLsbD k) ∧ (x.setWidth 8).getLsbD 6 = false ∧
      (x.setWidth 8).getLsbD 7 = false := by
  refine ⟨fun k hk => ?_, by simp, by simp⟩
  simp [show k < 8 by omega]

/-- The indicator byte's three bits (rule R103). -/
theorem indByte_getLsbD (hb pr : Bool) :
    (indByte hb pr).getLsbD 0 = hb ∧ (indByte hb pr).getLsbD 1 = pr ∧
      (indByte hb pr).getLsbD 2 = Bool.xor hb pr := by
  cases hb <;> cases pr <;> decide

theorem indByte_getLsbD_of_ge (hb pr : Bool) {k : Nat} (hk : 3 ≤ k) : (indByte hb pr).getLsbD k = false := by
  rw [indByte, BitVec.getLsbD_setWidth, BitVec.getLsbD_of_ge _ _ hk, Bool.and_false]

/-- The offsets of the seven reserved rows (rule R112). -/
def isReserved (a : Offset) : Bool :=
  offsetIn 0x06 0x07 a || offsetIn 0x09 0x09 a || offsetIn 0x0D 0x0D a || offsetIn 0x0E 0x0F a ||
    offsetIn 0x14 0x17 a || offsetIn 0x18 0x1F a || offsetIn 0x20 0x3F a

/-- Each offset the port names is outside the reserved rows, so only the port's last case is left. -/
theorem portByte_of_isReserved {a : Offset} (h : isReserved a = true) (e : Engine) (l : Snapshot) :
    portByte a e l = 0x00#8 := by
  unfold portByte
  split
  rotate_right
  · rfl
  all_goals exact absurd h (by decide)

theorem exec_reserved {i : Instr} {a : Offset} (hi : Operation.ofInstr i = .rd a) (h : isReserved a = true)
    (s : State) : exec i s = .next (afterRead s a 0x00#8) :=
  have ha : a ≠ 0x10#6 := fun hc => absurd (hc ▸ h) (by decide)
  exec_read hi ha (portByte_of_isReserved h s.eng s.lat)

/-! ### Words with RD alone set (rules R63, R98) -/

theorem getLsbD_of_flags {w : Word} {f : BitVec 4} (h : w.extractLsb' 12 4 = f) {k : Nat} (hk : k < 4) :
    w.getLsbD (12 + k) = f.getLsbD k := by
  simp [← h, hk]

theorem step_present_rd {w : Word} (h : w.extractLsb' 12 4 = 0x2#4) (s : State) :
    step (present w s) = .next (readStep (addrField w) s) := by
  have hRsv : rsvBit w = false := getLsbD_of_flags h (k := 0) (by decide)
  have hRd : rdBit w = true := getLsbD_of_flags h (k := 1) (by decide)
  have hTick : tickBit w = false := getLsbD_of_flags h (k := 2) (by decide)
  have hRst : rstBit w = false := getLsbD_of_flags h (k := 3) (by decide)
  rw [step_present_eq, hRsv, operationOf_rd hRst hTick hRd]; rfl

/-! ### The statements -/

/-- Settles O31: the byte is the packed states, each button's bit in its own place. -/
theorem readStatePacksTheStates : Obligations.ReadStatePacksTheStates := by
  intro s
  obtain ⟨hlow, h6, h7⟩ := getLsbD_zext8 (packStates s.eng.st)
  refine ⟨(packStates s.eng.st).setWidth 8, exec_read rfl (by decide) rfl, fun b => ?_, h6, h7, rfl⟩
  rw [hlow _ (buttonIndex_lt b), packStates_getLsbD, logicalState_bit_eq]

/-- Settles O32: the two bytes are the halves of COUNT. -/
theorem readCountReturnsItsBytes : Obligations.ReadCountReturnsItsBytes := fun s =>
  ⟨s.eng.count.extractLsb' 0 8, s.eng.count.extractLsb' 8 8, exec_read rfl (by decide) rfl,
    exec_read rfl (by decide) rfl, extractLsb'_low_toNat _, extractLsb'_high_toNat _, assemble_high_low _, rfl, rfl⟩

/-- Settles O36: the two bytes are the halves of LAT.COUNT, which neither read writes. -/
theorem readSnapCountReturnsItsBytes : Obligations.ReadSnapCountReturnsItsBytes := fun s =>
  ⟨s.lat.count.extractLsb' 0 8, s.lat.count.extractLsb' 8 8, exec_read rfl (by decide) rfl,
    exec_read rfl (by decide) rfl, extractLsb'_low_toNat _, extractLsb'_high_toNat _, assemble_high_low _, rfl, rfl⟩

/-- Settles O37: a well-formed reserved read holds an offset of its row, and the port holds 0x00 at all of those. -/
theorem reservedOffsetsReadZero : Obligations.ReservedOffsetsReadZero := by
  intro s a
  refine ⟨fun h => exec_reserved rfl ?_ s, exec_reserved rfl (by decide) s, exec_reserved rfl (by decide) s,
    fun h => exec_reserved rfl ?_ s, fun h => exec_reserved rfl ?_ s, fun h => exec_reserved rfl ?_ s,
    fun h => exec_reserved rfl ?_ s, encode_toInstr (.rd a)⟩
  all_goals
    have hrow : offsetIn _ _ a = true := h
    simp [isReserved, hrow]

/-- Settles O38: the step is `readStep` at the word's ADDR, and its latch is the only register a read can write. -/
theorem everyReadWordReadsThePort : Obligations.EveryReadWordReadsThePort := by
  intro s w h
  refine ⟨readStep (addrField w) s, step_present_rd h s, readStep_out _ s, readStep_reads _ s, readStep_eng _ s,
    fun ha => ?_, fun ha => portRead_lat_of_ne ha s.eng s.lat, readStep_cfg _ s, readStep_input _ s,
    readStep_draws _ s⟩
  have ha' : addrField w = 0x10#6 := ha
  rw [readStep_lat, ha', portRead_snapSeq]

/-- Settles O30: offset b of the port is the history of button b. -/
theorem readHistoryReturnsTheHistory : Obligations.ReadHistoryReturnsTheHistory := fun _ =>
  ⟨exec_read rfl (by decide) rfl, exec_read rfl (by decide) rfl, exec_read rfl (by decide) rfl,
    exec_read rfl (by decide) rfl, exec_read rfl (by decide) rfl, exec_read rfl (by decide) rfl, rfl⟩

/-- Settles O33: the byte is `indByte` of the two levels, which does not look at IND_MODE. -/
theorem readIndicatorLevels : Obligations.ReadIndicatorLevels := by
  intro s
  obtain ⟨hHb, hPr, hXor⟩ := indByte_getLsbD s.eng.hbLvl s.eng.prLvl
  exact ⟨indByte s.eng.hbLvl s.eng.prLvl, exec_read rfl (by decide) rfl, hHb, hPr, hXor,
    fun _ hk => indByte_getLsbD_of_ge _ _ hk, rfl⟩

/-- Settles O34: the latch copies PUB, which no read writes, so a second latch copies the same; and the read of a
TICK.RD is made on the engine from before its tick. -/
theorem readSnapSeqLatchesTheSnapshot : Obligations.ReadSnapSeqLatchesTheSnapshot := by
  intro s r
  refine ⟨readStep 0x10#6 s, readStep 0x10#6 (readStep 0x10#6 s), tickReadStep r 0x10#6 s, exec_of_rd rfl s,
    readStep_snapSeq s, exec_of_rd rfl _, ?_, ?_, exec_eq_effect _ s, ?_, rfl⟩
  all_goals simp [portRead_snapSeq]

/-- Settles O35: the byte is LAT.STATE, zero-extended. -/
theorem readSnapStateReturnsTheLatchedStates : Obligations.ReadSnapStateReturnsTheLatchedStates := by
  intro s
  obtain ⟨hlow, h6, h7⟩ := getLsbD_zext8 s.lat.state
  exact ⟨s.lat.state.setWidth 8, exec_read rfl (by decide) rfl, hlow, h6, h7, rfl⟩

end Sys2Proof.Machine
end

section
/-! PROOFS. The cycle (42_cycle.md). TICK.RD is the composition of the two steps it names (`tickReadStep_eq`); NOP is
`idleStep`, and so is every word whose four flag bits are 0. -/

namespace Sys2Proof.Machine

/-! ### TICK.RD (rule R117) -/

/-- The read writes none of what the tick reads, so the two steps compose; the read's byte stays on `rdata`, where a
tick alone would put 0x00. -/
theorem tickReadStep_eq (r : RawLevels) (a : Offset) (s : State) :
    tickReadStep r a s =
      { tickStep r (readStep a s) with
        out := { (tickStep r (readStep a s)).out with rdata := (readStep a s).out.rdata } } := rfl

/-- The latch of a TICK.RD copies PUB before the tick publishes, so it lags one tick behind. -/
theorem tickReadStep_snapSeq_lat (r : RawLevels) (s : State) :
    (tickReadStep r 0x10#6 s).lat = s.eng.pub ∧
      (tickReadStep r 0x10#6 s).lat.seq = (tickReadStep r 0x10#6 s).eng.pub.seq - 1#8 := by
  rw [tickReadStep_lat, tickReadStep_eng, tickEngine_pub_seq, portRead_snapSeq]
  exact ⟨rfl, (BitVec.add_sub_cancel _ _).symm⟩

/-- Settles O24: the three operations are `tickReadStep`, `readStep` and `tickStep`, and the first is the composition
of the other two. -/
theorem tickRdIsReadThenTick : Obligations.TickRdIsReadThenTick := by
  intro r a s
  refine ⟨tickReadStep r a s, readStep a s, tickStep r (readStep a s), exec_eq_effect _ s,
    exec_of_rd (ofInstr_decodeRead a) s, exec_eq_effect _ _, tickReadStep_eq r a s, ?_, ?_,
    encode_toInstr (.tickRd r a)⟩
  · rw [tickReadStep_out, tickOutputs_rdata]
  · rintro rfl
    exact tickReadStep_snapSeq_lat r s

/-! ### NOP (rule R116) -/

theorem exec_nop (s : State) : exec .nop s = .next (idleStep s) := exec_eq_effect .nop s

/-- The four flag bits by name (rule R63). -/
theorem flagBits_eq {w : Word} {f : BitVec 4} (h : w.extractLsb' 12 4 = f) :
    rstBit w = f.getLsbD 3 ∧ tickBit w = f.getLsbD 2 ∧ rdBit w = f.getLsbD 1 ∧ rsvBit w = f.getLsbD 0 :=
  ⟨getLsbD_of_flags h (k := 3) (by decide), getLsbD_of_flags h (k := 2) (by decide),
    getLsbD_of_flags h (k := 1) (by decide), getLsbD_of_flags h (k := 0) (by decide)⟩

/-- ADDR and RAW are don't-care where all four flag bits are 0 (rule R67). -/
theorem step_present_nop {w : Word} (h : w.extractLsb' 12 4 = 0x0#4) (s : State) :
    step (present w s) = .next (idleStep s) := by
  obtain ⟨hRst, hTick, hRd, hRsv⟩ := flagBits_eq h
  rw [step_present_eq, hRsv, operationOf_nop hRst hTick hRd]; rfl

/-- Settles O25: both sides are `idleStep`, which writes the outputs only. -/
theorem nopChangesNoStateElement : Obligations.NopChangesNoStateElement := fun s =>
  ⟨exec_nop s, fun _ h => (step_present_nop h s).trans (exec_nop s).symm, encode_toInstr .nop⟩

end Sys2Proof.Machine
end

section
/-! PROOFS. The outcomes of a step (60_exceptions.md). The block raises nothing: `Fault` has no value, every operation
completes, and bit 12 of the word a step fetches alone decides whether the step completes or is refused. -/

namespace Sys2Proof.Machine

/-- The two outcomes of any step, whether its word was listed or drawn from the environment (rule R122). -/
theorem step_eq (s : State) :
    step s = if rsvBit (fetch s).1 then .refused (.reservedWord (fetch s).1)
      else .next (effect (operationOf (fetch s).1) (fetch s).2) :=
  (step_eq_present s).trans (step_present_eq _ _)

/-- A step completes or is refused as its word's bit 12 is clear or set. -/
theorem step_completes_or_refuses (s : State) :
    (∃ t, step s = .next t) ∨ ∃ w : Word, rsvBit w = true ∧ step s = .refused (.reservedWord w) := by
  rw [step_eq]
  cases hRsv : rsvBit (fetch s).1 with
  | false => exact .inl ⟨_, rfl⟩
  | true => exact .inr ⟨_, hRsv, rfl⟩

/-- The block has no reason to fault (rule R122): `Fault` has no constructor. -/
theorem no_fault (f : Fault) : False := nomatch f

/-- Settles O13: the case split on bit 12, the effect every operation has, and the empty type of faults. -/
theorem onlyReservedWordsDoNotComplete : Obligations.OnlyReservedWordsDoNotComplete :=
  ⟨step_completes_or_refuses, fun i s => ⟨effect (Operation.ofInstr i) s, exec_eq_effect i s⟩,
    fun ⟨f, _⟩ => no_fault f⟩

end Sys2Proof.Machine
end

section
/-! PROOFS. Decoding against encoding (30_encoding.md), continued: a word and an operation each name the other, so the
two directions of rule R75 are `operationOf_enc` and `enc_operationOf` with the rows put in. -/

namespace Sys2Proof.Machine

/-- Settles O1: the canonical word of a row is that of its operation, which the word names, and a well-formed row is
the row of its operation. -/
theorem decodeInvertsEncode : Obligations.DecodeInvertsEncode := by
  intro i hwf
  rw [← enc_ofInstr, decode_of_not_rsv (rsvBit_enc _), operationOf_enc, toInstr_ofInstr hwf]

/-- The row that an operation selects holds the operation's offset. -/
theorem toInstr_wf (o : Operation) : o.toInstr.WellFormed := by
  cases o with
  | rd a => revert a; decide
  | _ => rfl

/-- Settles O2: a word decodes to the row of its operation. -/
theorem encodeOfDecodeDropsOnlyDontCareBits : Obligations.EncodeOfDecodeDropsOnlyDontCareBits := by
  intro w i h
  obtain ⟨hRsv, rfl⟩ := decode_eq_ok_iff.mp h
  exact ⟨toInstr_wf _, (encode_toInstr _).trans (enc_operationOf hRsv)⟩

/-- Settles O5: the named offsets by their equations, the ranges of the reserved rows by trying all 64 offsets. -/
theorem readMnemonicIsSelectedByOffset : Obligations.ReadMnemonicIsSelectedByOffset := by
  refine ⟨rfl, rfl, rfl, rfl, rfl, rfl, rfl, rfl, rfl, rfl, rfl, rfl, rfl, rfl, rfl, rfl, ?_⟩
  decide

/-- Settles O7: the decoder evaluated on the fourteen words of the table. -/
theorem sampleWordsDecodeAsListed : Obligations.SampleWordsDecodeAsListed :=
  ⟨rfl, rfl, rfl, rfl, rfl, rfl, rfl, rfl, rfl, rfl, rfl, rfl, rfl, rfl⟩

/-! ### The polarity mask (rule R77) -/

theorem rawLevel_polMask (pol : PerButton Polarity) (b : Button) : rawLevel (polMask pol) b = (pol.get b).bit := by
  rw [rawLevel, polMask, packBits_getLsbD, PerButton.get_ofFn]

theorem rawLevel_xor (r m : RawLevels) (b : Button) :
    rawLevel (r ^^^ m) b = Bool.xor (rawLevel r b) (m.getLsbD (buttonIndex b)) := BitVec.getLsbD_xor

/-- A line driven to the level of its own polarity is released; a line driven against it is pressed. -/
theorem sample_polMask_xor (pol : PerButton Polarity) (m : BitVec 6) (b : Button) :
    sample pol (polMask pol ^^^ m) b = m.getLsbD (buttonIndex b) := by
  rw [sample, rawLevel_xor, rawLevel_polMask]
  cases (pol.get b).bit <;> simp

/-- Settles O10: POLMASK is POLMASK with no bit flipped, and the expansions are those of rule R77. -/
theorem polarityMaskReleasesEveryButton : Obligations.PolarityMaskReleasesEveryButton := by
  intro pol m b n r
  have hReleased : sample pol (polMask pol) b = false := by
    simpa using sample_polMask_xor pol 0#6 b
  exact ⟨hReleased, sample_polMask_xor pol m b, rfl, rfl, rfl, rfl, rfl, rfl⟩

end Sys2Proof.Machine
end

section
/-! PROOFS. The invariants that every step keeps: PUB is coherent (rule R27), histories are settled (95_test_vectors.md
2.1), the levels are parities (rules R88 to R91). Any step resets the engine, leaves it, or ticks it once
(`step_eng_cases`), so each invariant is checked at reset and after a tick. -/

namespace Sys2Proof.Machine

@[simp] theorem fetch_eng (s : State) : (fetch s).2.eng = s.eng := by
  obtain ⟨w, ws, -, hf⟩ | ⟨-, hf⟩ := fetch_spec s <;> rw [hf]

/-- What a step can do to the engine, whether its word was listed or drawn from the environment. -/
theorem step_eng_cases {s t : State} (h : step s = .next t) :
    t.eng = Engine.reset ∨ t.eng = s.eng ∨ ∃ r, t.eng = tickEngine s.cfg.pol r s.eng := by
  rw [step_eq_present] at h
  have heng := step_eng h
  rw [fetch_cfg, fetch_eng] at heng
  split at heng
  next => exact .inl heng
  next =>
    split at heng
    next r _ => exact .inr (.inr ⟨r, heng⟩)
    next => exact .inr (.inl heng)

/-! ### At reset -/

theorem coherent_of_reset {s : State} (h : s.eng = Engine.reset) : Coherent s := by
  rw [Coherent, h]
  decide

theorem settled_of_reset {s : State} (h : s.eng = Engine.reset) : Settled s := by
  intro b
  rw [h, reset_hist_get, reset_st_get]
  decide

theorem levelsCount_of_reset {s : State} (h : s.eng = Engine.reset) : LevelsCount s := by
  rw [LevelsCount, h]
  decide

/-- Settles O43: the three invariants hold wherever the engine's registers are those of reset. -/
theorem resetMeetsTheInvariants : Obligations.ResetMeetsTheInvariants :=
  ⟨fun _ => ⟨coherent_of_reset rfl, settled_of_reset rfl, levelsCount_of_reset rfl⟩,
    coherent_of_reset rfl, settled_of_reset rfl, levelsCount_of_reset rfl⟩

/-! ### After a tick -/

/-- A tick publishes its own states and count (rule R91). -/
theorem coherent_of_tick {s : State} {pol : PerButton Polarity} {r : RawLevels} {e : Engine}
    (h : s.eng = tickEngine pol r e) : Coherent s := by
  rw [Coherent, h]
  exact ⟨rfl, rfl⟩

/-- A history of eight equal samples decides the state by itself (rules R85, R86). -/
theorem nextLogical_settles (h : Byte) (st : LogicalState) :
    (h = 0xFF#8 → nextLogical h st = .down) ∧ (h = 0x00#8 → nextLogical h st = .up) := by
  rw [nextLogical_eq]
  exact ⟨fun hones => if_pos hones, fun hzeros => by rw [hzeros]; rfl⟩

theorem settled_of_tick {s : State} {pol : PerButton Polarity} {r : RawLevels} {e : Engine}
    (h : s.eng = tickEngine pol r e) : Settled s := by
  intro b
  rw [h, tickEngine_hist, tickEngine_st, tickHist_get, tickSt_get]
  exact nextLogical_settles _ _

/-- The lowest bit of a sum has no carry. -/
theorem getLsbD_zero_add {w : Nat} (hw : 0 < w) (x y : BitVec w) :
    (x + y).getLsbD 0 = Bool.xor (x.getLsbD 0) (y.getLsbD 0) := by
  rw [BitVec.getLsbD_add hw, BitVec.carry_zero, Bool.xor_false]

theorem getLsbD_zero_ofNat {w : Nat} (hw : 0 < w) (n : Nat) : (BitVec.ofNat w n).getLsbD 0 = (n % 2 == 1) := by
  rw [BitVec.getLsbD_ofNat, Nat.testBit_zero, decide_eq_true hw, Bool.true_and]
  rfl

/-- A tick adds 1 to PUB.SEQ and the number of press events to COUNT, and toggles each level by the parity of what it
adds; both counters wrap at an even number, so bit 0 stays the parity. -/
theorem levelsCount_of_tick {s t : State} {pol : PerButton Polarity} {r : RawLevels} (hs : LevelsCount s)
    (h : t.eng = tickEngine pol r s.eng) : LevelsCount t := by
  obtain ⟨hHb, hPr⟩ := hs
  rw [LevelsCount, h, tickEngine_hbLvl, tickEngine_pub_seq, tickEngine_prLvl, tickEngine_count]
  constructor
  · rw [hHb, getLsbD_zero_add (by decide)]
    simp
  · rw [tickPrLvl, tickCount, hPr, getLsbD_zero_add (by decide), getLsbD_zero_ofNat (by decide)]

/-! ### Every step -/

/-- Settles O40: only reset and a tick write PUB, the states or COUNT, and both leave PUB coherent. -/
theorem stepKeepsThePublishedSnapshotCoherent : Obligations.StepKeepsThePublishedSnapshotCoherent := by
  intro s t hs hstep
  obtain h | h | ⟨r, h⟩ := step_eng_cases hstep
  · exact coherent_of_reset h
  · rw [Coherent, h]; exact hs
  · exact coherent_of_tick h

/-- Settles O41: only reset and a tick write the histories or the states, and both leave them settled. -/
theorem stepKeepsHistoriesSettled : Obligations.StepKeepsHistoriesSettled := by
  intro s t hs hstep
  obtain h | h | ⟨r, h⟩ := step_eng_cases hstep
  · exact settled_of_reset h
  · rw [Settled, h]; exact hs
  · exact settled_of_tick h

/-- Settles O42: only reset and a tick write the levels or the counters, and a tick keeps the parities. -/
theorem stepKeepsLevelsCountingParities : Obligations.StepKeepsLevelsCountingParities := by
  intro s t hs hstep
  obtain h | h | ⟨r, h⟩ := step_eng_cases hstep
  · exact levelsCount_of_reset h
  · rw [LevelsCount, h]; exact hs
  · exact levelsCount_of_tick hs h

end Sys2Proof.Machine
end

section
/-! PROOFS. Steps and runs on the words presented (42_cycle.md), RST (70_reset_and_hazards.md), and what a read leaves
for the next one. -/

namespace Sys2Proof.Machine

/-! ### One step (rules R64, R115) -/

theorem fetch_of_cons {s : State} {w : Word} {ws : List Word} (h : s.input = w :: ws) :
    fetch s = (w, { s with input := ws }) := by
  rw [fetch, h]

theorem fetch_of_nil {s : State} (h : s.input = []) :
    fetch s = (Config.envWord s.draws, { s with draws := s.draws + 1 }) := by
  rw [fetch, h]

/-- Settles O11: a step is the step on the word the fetch takes, which is the listed word or the free one. -/
theorem stepRunsTheDecodedInstruction : Obligations.StepRunsTheDecodedInstruction := by
  refine ⟨fun s w ws i hInput hDecode => ?_, fun s hInput => ?_⟩
  · rw [step_eq_present, fetch_of_cons hInput, step_present, hDecode]
  · rw [step_eq_present s, fetch_of_nil hInput]

/-! ### Runs (rules R115, R120) -/

theorem step_present_of_not_rsv {w : Word} (h : rsvBit w = false) (s : State) :
    step (present w s) = .next (effect (operationOf w) s) := by
  rw [step_present_eq, h]; rfl

theorem runWords_cons_of_next {w : Word} {ws : List Word} {s u : State} (h : step (present w s) = .next u) :
    runWords (w :: ws) s = runWords ws u := by
  rw [runWords, h]

theorem runWords_cons_of_refused {w : Word} {ws : List Word} {s : State} {f : Refusal}
    (h : step (present w s) = .refused f) : runWords (w :: ws) s = .refused f := by
  rw [runWords, h]

/-- Settles O14: each word completes, and the rest of the run goes on from its next state. -/
theorem presentableRunsComplete : Obligations.PresentableRunsComplete := by
  intro ws
  induction ws with
  | nil => exact fun s _ => ⟨s, rfl⟩
  | cons w ws ih =>
    intro s hws
    obtain ⟨hw, hrest⟩ := List.forall_mem_cons.mp hws
    rw [runWords_cons_of_next (step_present_of_not_rsv hw s)]
    exact ih _ hrest

/-- No operation looks at the words to come, and none takes one. -/
theorem effect_withInput (o : Operation) (s : State) (ws : List Word) :
    effect o { s with input := ws } = { effect o s with input := ws } ∧ (effect o s).input = s.input := by
  cases o <;> exact ⟨rfl, rfl⟩

theorem coreRun_of_next {s t : State} (h : step s = .next t) (k : Nat) :
    Host.Core.run Sys2Proof.core (k + 1) s = Host.Core.run Sys2Proof.core k t := by
  have hstep : Sys2Proof.core.step s = .next t := h
  simp only [Host.Core.run, hstep]

theorem coreRun_of_refused {s : State} {f : Refusal} (h : step s = .refused f) (k : Nat) :
    Host.Core.run Sys2Proof.core (k + 1) s = .refused f := by
  have hstep : Sys2Proof.core.step s = .refused f := h
  simp only [Host.Core.run, hstep]

/-- Settles O15: the step that takes a listed word is the step on that word presented, but for the words still listed,
which no operation looks at. -/
theorem runWordsIsTheMachineRun : Obligations.RunWordsIsTheMachineRun := by
  intro ws
  induction ws with
  | nil => exact fun s => rfl
  | cons w ws ih =>
    intro s
    cases hRsv : rsvBit w with
    | true =>
      have hrefused (u : State) : step (present w u) = .refused (.reservedWord w) :=
        (step_present_eq w u).trans (if_pos hRsv)
      rw [runWords_cons_of_refused (hrefused s)]
      exact coreRun_of_refused (hrefused { s with input := ws ++ s.input }) ws.length
    | false =>
      obtain ⟨heffect, hinput⟩ := effect_withInput (operationOf w) s (ws ++ s.input)
      have hrest := ih (effect (operationOf w) s)
      have hfirst := step_present_of_not_rsv hRsv { s with input := ws ++ s.input }
      rw [heffect] at hfirst
      rw [hinput] at hrest
      rw [runWords_cons_of_next (step_present_of_not_rsv hRsv s), ← hrest]
      exact coreRun_of_next hfirst ws.length

/-! ### RST (rules R118, R142) -/

theorem exec_rst (s : State) : exec .rst s = .next (resetStep s) := exec_eq_effect .rst s

/-- The other fields of a word with RST = 1 are don't-care. -/
theorem step_present_rst {w : Word} (hRst : rstBit w = true) (hRsv : rsvBit w = false) (s : State) :
    step (present w s) = .next (resetStep s) := by
  rw [step_present_of_not_rsv hRsv, operationOf_rst hRst]; rfl

/-- Settles O26: the next state is `resetStep s`, whose fields are the reset values and the model's own. -/
theorem resetClearsEveryElement : Obligations.ResetClearsEveryElement := fun s =>
  ⟨resetStep s, exec_rst s, fun _ hRst hRsv => step_present_rst hRst hRsv s,
    fun b => ⟨reset_hist_get b, reset_st_get b⟩, reset_count, reset_hbLvl, reset_prLvl, reset_pub, resetStep_lat s,
    resetStep_out s, resetStep_cfg s, resetStep_reads s, resetStep_input s, resetStep_draws s, encode_toInstr .rst⟩

/-- Settles O27: both words do `resetStep`, which reads nothing and ticks nothing. -/
theorem resetOverridesTheRestOfTheWord : Obligations.ResetOverridesTheRestOfTheWord := by
  intro s w hRst hRsv
  have hw := step_present_rst hRst hRsv s
  exact ⟨hw.trans (step_present_rst rfl rfl s).symm, resetStep s, hw, resetStep_reads s, rfl, rfl⟩

/-! ### Reads at reset, and reads repeated (rules R30, R54) -/

theorem exec_decodeRead (a : Offset) (s : State) : exec (decodeRead a) s = .next (readStep a s) :=
  exec_of_rd (ofInstr_decodeRead a) s

/-- Every register is 0 at reset, so every byte of the port is. -/
theorem portRead_reset (a : Offset) : portRead a Engine.reset Snapshot.reset = (0x00#8, Snapshot.reset) := by
  revert a; decide

/-- Settles O29: the read's byte and latch are the port's at reset. -/
theorem everyPortReadIsZeroAtReset : Obligations.EveryPortReadIsZeroAtReset := by
  intro a cfg
  refine ⟨readStep a (State.resetWith cfg), exec_decodeRead a _, ?_, ?_⟩
  · rw [readStep_out, resetWith_eng, resetWith_lat, portRead_reset]
  · rw [readStep_lat, resetWith_eng, resetWith_lat, portRead_reset]; rfl

/-- The port read again, on the LAT that the first read left, answers the same byte and the same LAT. -/
theorem portRead_again (a : Offset) (e : Engine) (l : Snapshot) :
    portRead a e (portRead a e l).2 = portRead a e l := by
  by_cases ha : a = 0x10#6
  · rw [ha, portRead_snapSeq, portRead_snapSeq]
  · rw [portRead_lat_of_ne ha]

/-- Settles O39: a read leaves the engine as it is, so the second read asks the port what the first one asked. -/
theorem repeatedReadReturnsTheSame : Obligations.RepeatedReadReturnsTheSame := by
  intro a s
  refine ⟨readStep a s, readStep a (readStep a s), exec_decodeRead a s, exec_decodeRead a _, ?_, ?_, rfl, ?_⟩
  · rw [readStep_out, readStep_eng, readStep_lat, portRead_again, readStep_out]
  · rw [readStep_lat, readStep_eng, readStep_lat, portRead_again]
  · rintro rfl
    rw [readStep_lat, portRead_snapSeq, readStep_eng]

end Sys2Proof.Machine
end

section
/-! PROOFS. The debounce tick, continued: the loop in any order (rule R81), each lane by itself, the indicator pins
(rules R24, R90). -/

namespace Sys2Proof.Machine

/-- Settles O22: an ordering of the six buttons visits each of them once. -/
theorem tickIsIndependentOfTheLoopOrder : Obligations.TickIsIndependentOfTheLoopOrder :=
  fun pol r e _ hPerm => tickLoop_eq pol r (hPerm.nodup_iff.mpr allButtons_nodup)
    (fun b => hPerm.mem_iff.mpr (mem_allButtons b)) e

theorem exec_tick (r : RawLevels) (s : State) : exec (.tick r) s = .next (tickStep r s) := exec_eq_effect (.tick r) s

/-- Settles O23: a button's history, state and events after a tick are lane functions of its own history, state and
sample, and the sample is that of its own line. -/
theorem tickLanesAreIndependent : Obligations.TickLanesAreIndependent := by
  intro r q s u b hHist hSt hPol hRaw
  have hSample : sample s.cfg.pol r b = sample u.cfg.pol q b := by
    rw [sample, sample, rawLevel, rawLevel, hRaw, hPol]
  refine ⟨tickStep r s, tickStep q u, exec_tick r s, exec_tick q u, ?_⟩
  simp [hHist, hSt, hSample]

/-! ### The indicator pins -/

theorem indicatorPins_shared {s : State} (h : s.cfg.indMode = .shared) :
    indicatorPins s = .shared (Bool.xor s.eng.hbLvl s.eng.prLvl) := by
  rw [indicatorPins, h]

theorem indicatorPins_split {s : State} (h : s.cfg.indMode = .split) :
    indicatorPins s = .split s.eng.hbLvl s.eng.prLvl := by
  rw [indicatorPins, h]

/-- A tick toggles HB_LVL, so the exclusive or is kept exactly when PR_LVL is toggled too. -/
theorem tick_sharedPin_kept_iff (pol : PerButton Polarity) (r : RawLevels) (e : Engine) :
    Bool.xor (!e.hbLvl) (tickPrLvl pol r e) = Bool.xor e.hbLvl e.prLvl ↔
      popcount6 (tickPressEv pol r e) % 2 = 1 := by
  have hxor : ∀ hb pr pr' : Bool, Bool.xor (!hb) pr' = Bool.xor hb pr ↔ pr' ≠ pr := by decide
  rw [← tickPrLvl_ne_iff]
  exact hxor _ _ _

/-- Settles O47: the pins by mode, at reset, and after a tick on the shared pin. -/
theorem indicatorPinsFollowTheMode : Obligations.IndicatorPinsFollowTheMode := by
  refine ⟨fun s => ⟨indicatorPins_shared, indicatorPins_split⟩, fun cfg => ?_, fun s r hMode => ?_⟩
  · cases hMode : cfg.indMode with
    | shared => exact indicatorPins_shared hMode
    | split => exact indicatorPins_split hMode
  · refine ⟨tickStep r s, exec_tick r s, ?_⟩
    have hMode' : (tickStep r s).cfg.indMode = .shared := hMode
    rw [indicatorPins_shared hMode, indicatorPins_shared hMode', Pins.shared.injEq]
    exact tick_sharedPin_kept_iff s.cfg.pol r s.eng

end Sys2Proof.Machine
end

section
/-! PROOFS. Reads and the engine (rule R36). A word without its read does to the engine, and sends to the event outputs,
what the whole word does (`erased_step`); the rest is an induction along the run. -/

namespace Sys2Proof.Machine

/-! ### The bits of a word without its read -/

theorem eraseRead_getLsbD (w : Word) {k : Nat} (hk : (0xDFFF#16).getLsbD k = true) :
    (eraseRead w).getLsbD k = w.getLsbD k := by
  rw [eraseRead, BitVec.getLsbD_and, hk, Bool.and_true]

theorem rsvBit_eraseRead (w : Word) : rsvBit (eraseRead w) = rsvBit w := eraseRead_getLsbD w rfl

theorem rdBit_eraseRead (w : Word) : rdBit (eraseRead w) = false := by
  rw [rdBit, eraseRead, BitVec.getLsbD_and, show (0xDFFF#16).getLsbD 13 = false from rfl, Bool.and_false]

theorem rawField_eraseRead (w : Word) : rawField (eraseRead w) = rawField w := by
  rw [eraseRead, rawField_and, show rawField 0xDFFF#16 = BitVec.allOnes 6 from rfl, BitVec.and_allOnes]

theorem resets_eraseRead (w : Word) : resets (eraseRead w) = resets w := by
  rw [resets, resets, rsvBit_eraseRead, rstBit, rstBit, eraseRead_getLsbD w rfl]

theorem tickOf_eraseRead (w : Word) : tickOf (eraseRead w) = tickOf w := by
  rw [tickOf, tickOf, rsvBit_eraseRead, rawField_eraseRead, rstBit, rstBit, tickBit, tickBit,
    eraseRead_getLsbD w rfl, eraseRead_getLsbD w rfl]

theorem readOf_eraseRead (w : Word) : readOf (eraseRead w) = none := by
  simp [readOf, rdBit_eraseRead]

/-! ### One step -/

/-- Only a word that reads adds to the observation (rule R104). -/
theorem step_reads_of_not_read {w : Word} {s t : State} (h : step (present w s) = .next t) (hw : readOf w = none) :
    t.reads = s.reads := by
  obtain ⟨hRsv, rfl⟩ := step_present_next h
  unfold readOf at hw
  unfold operationOf
  cases hRst : rstBit w <;> cases tickBit w <;> cases hRd : rdBit w <;> simp_all [effect]

/-- Two states with the same engine registers and the same parameters. -/
def SameEngine (u s : State) : Prop := u.eng = s.eng ∧ u.cfg = s.cfg

/-- What of the outputs the Tick agent drives (rule R33). -/
def events (o : Outputs) : BitVec 6 × BitVec 6 × Bool := (o.pressEv, o.releaseEv, o.hbPulse)

/-- The step without the read, from a state with the same engine, follows the step with it. -/
theorem erased_step {w : Word} {s s' u : State} (h : step (present w s) = .next s') (hsame : SameEngine u s) :
    ∃ u', step (present (eraseRead w) u) = .next u' ∧ SameEngine u' s' ∧ u'.reads = u.reads ∧
      events u'.out = events s'.out := by
  obtain ⟨heng, hcfg⟩ := hsame
  obtain ⟨hRsv, -⟩ := step_present_next h
  have hu := step_present_of_not_rsv ((rsvBit_eraseRead w).trans hRsv) u
  obtain ⟨hPress, hRelease, hPulse⟩ := step_events h
  obtain ⟨hPress', hRelease', hPulse'⟩ := step_events hu
  obtain ⟨hcfgStep, -, -⟩ := step_rest h
  obtain ⟨hcfgErased, -, -⟩ := step_rest hu
  refine ⟨_, hu, ⟨?_, ?_⟩, step_reads_of_not_read hu (readOf_eraseRead w), ?_⟩
  · rw [step_eng hu, step_eng h, resets_eraseRead, tickOf_eraseRead, heng, hcfg]
  · rw [hcfgErased, hcfg, hcfgStep]
  · rw [events, events, hPress', hRelease', hPulse', hPress, hRelease, hPulse, tickOf_eraseRead, heng, hcfg]

/-! ### Runs -/

theorem erased_run {ws : List Word} {s t u : State} (h : runWords ws s = .next t) (hsame : SameEngine u s) :
    ∃ v, runWords (ws.map eraseRead) u = .next v ∧ SameEngine v t ∧ v.reads = u.reads ∧
      (outputsOf (ws.map eraseRead) u).map events = (outputsOf ws s).map events := by
  induction ws generalizing s u with
  | nil =>
    obtain rfl : s = t := by simpa using h
    exact ⟨u, rfl, hsame, rfl, rfl⟩
  | cons w ws ih =>
    obtain ⟨s', hs', hrest⟩ := runWords_cons_next h
    obtain ⟨u', hu', hsame', hreads, hevents⟩ := erased_step hs' hsame
    obtain ⟨v, hv, hsameEnd, hreadsEnd, heventsEnd⟩ := ih hrest hsame'
    refine ⟨v, ?_, hsameEnd, hreadsEnd.trans hreads, ?_⟩
    · rw [List.map_cons, runWords_cons_of_next hu', hv]
    · rw [List.map_cons, outputsOf_cons hu', outputsOf_cons hs', List.map_cons, List.map_cons, hevents, heventsEnd]

/-! ### The Reader agent -/

/-- Whose step an operation is, by its shape. -/
def Operation.agents : Operation → List Agent
  | .nop => []
  | .tick _ => [.tick]
  | .rd _ => [.reader]
  | .tickRd _ _ => [.tick, .reader]
  | .rst => [.environment]

theorem agentsOf_eq (i : Instr) : agentsOf i = (Operation.ofInstr i).agents := by
  cases i <;> rfl

/-- The Reader agent alone takes the steps of the reads (rule R115). -/
theorem ofInstr_of_reader {i : Instr} (h : agentsOf i = [.reader]) : ∃ a, Operation.ofInstr i = .rd a := by
  rw [agentsOf_eq] at h
  cases ho : Operation.ofInstr i with
  | rd a => exact ⟨a, rfl⟩
  | _ => simp [ho, Operation.agents] at h

/-- Settles O46: a read leaves the engine, a tick does not look at LAT, and the erased run follows the run. -/
theorem readsNeverDisturbTheEngine : Obligations.ReadsNeverDisturbTheEngine := by
  refine ⟨fun i s hi => ?_, fun r s l => ?_, fun ws s t h => ?_⟩
  · obtain ⟨a, ha⟩ := ofInstr_of_reader hi
    exact ⟨readStep a s, exec_of_rd ha s, readStep_eng a s⟩
  · exact ⟨tickStep r s, tickStep r { s with lat := l }, exec_tick r s, exec_tick r _, rfl, rfl⟩
  · obtain ⟨u, hu, ⟨heng, -⟩, hreads, hevents⟩ := erased_run h ⟨rfl, rfl⟩
    exact ⟨u, hu, heng, hreads, hevents⟩

end Sys2Proof.Machine
end

section
/-! PROOFS. Runs without RST, told by their ticks. A step with no tick leaves the engine and has no event; a step with a
tick is `tickEngine`. -/

namespace Sys2Proof.Machine

/-! ### One step -/

theorem resets_of_tickOf {w : Word} {r : RawLevels} (h : tickOf w = some r) : resets w = false := by
  unfold tickOf at h
  unfold resets
  cases hRst : rstBit w <;> simp_all

theorem step_of_not_tick {w : Word} {s t : State} (h : step (present w s) = .next t) (hw : resets w = false)
    (hTick : tickOf w = none) : t.eng = s.eng := by
  simpa [hw, hTick] using step_eng h

theorem step_of_tick {w : Word} {r : RawLevels} {s t : State} (h : step (present w s) = .next t)
    (hTick : tickOf w = some r) : t.eng = tickEngine s.cfg.pol r s.eng := by
  simpa [resets_of_tickOf hTick, hTick] using step_eng h

theorem step_events_of_not_tick {w : Word} {s t : State} (h : step (present w s) = .next t)
    (hTick : tickOf w = none) : t.out.pressEv = 0#6 ∧ t.out.releaseEv = 0#6 := by
  obtain ⟨hPress, hRelease, -⟩ := step_events h
  rw [hTick] at hPress hRelease
  exact ⟨hPress, hRelease⟩

theorem step_events_of_tick {w : Word} {r : RawLevels} {s t : State} (h : step (present w s) = .next t)
    (hTick : tickOf w = some r) :
    t.out.pressEv = tickPressEv s.cfg.pol r s.eng ∧ t.out.releaseEv = tickReleaseEv s.cfg.pol r s.eng := by
  obtain ⟨hPress, hRelease, -⟩ := step_events h
  rw [hTick] at hPress hRelease
  exact ⟨hPress, hRelease⟩

theorem step_pol {w : Word} {s t : State} (h : step (present w s) = .next t) : t.cfg.pol = s.cfg.pol := by
  obtain ⟨hcfg, -, -⟩ := step_rest h
  rw [hcfg]

/-! ### Lists of words -/

theorem ticksOf_cons_of_not_tick {w : Word} (hTick : tickOf w = none) (ws : List Word) :
    ticksOf (w :: ws) = ticksOf ws := List.filterMap_cons_none hTick

theorem ticksOf_cons_of_tick {w : Word} {r : RawLevels} (hTick : tickOf w = some r) (ws : List Word) :
    ticksOf (w :: ws) = r :: ticksOf ws := List.filterMap_cons_some hTick

theorem length_samplesOf (pol : PerButton Polarity) (b : Button) (ws : List Word) :
    (samplesOf pol b ws).length = (ticksOf ws).length := List.length_map _

theorem length_ticksOf_append (ws vs : List Word) :
    (ticksOf (ws ++ vs)).length = (ticksOf ws).length + (ticksOf vs).length := by
  rw [ticksOf, List.filterMap_append, List.length_append]; rfl

theorem noReset_cons {w : Word} {ws : List Word} (h : NoReset (w :: ws)) : resets w = false ∧ NoReset ws :=
  List.forall_mem_cons.mp h

theorem noReset_append {ws vs : List Word} (h : NoReset (ws ++ vs)) : NoReset ws ∧ NoReset vs :=
  List.forall_mem_append.mp h

theorem runWords_singleton {w : Word} {s t : State} (h : step (present w s) = .next t) : runWords [w] s = .next t :=
  runWords_cons_of_next h

/-- A run and one more step are a run over the words of both. -/
theorem runWords_concat {ws : List Word} {w : Word} {s t u : State} (h : runWords ws s = .next t)
    (hw : step (present w t) = .next u) : runWords (ws ++ [w]) s = .next u :=
  runWords_append_next.mpr ⟨t, h, runWords_singleton hw⟩

theorem outputsOf_append {ws vs : List Word} {s t : State} (h : runWords ws s = .next t) :
    outputsOf (ws ++ vs) s = outputsOf ws s ++ outputsOf vs t := by
  induction ws generalizing s with
  | nil =>
    obtain rfl : s = t := by simpa using h
    rfl
  | cons w ws ih =>
    obtain ⟨u, hu, hrest⟩ := runWords_cons_next h
    rw [List.cons_append, outputsOf_cons hu, outputsOf_cons hu, ih hrest, List.cons_append]

/-! ### Counts of events -/

theorem pressTotal_cons {w : Word} {ws : List Word} {s u : State} (h : step (present w s) = .next u) :
    pressTotal (w :: ws) s = popcount6 u.out.pressEv + pressTotal ws u := by
  rw [pressTotal, outputsOf_cons h, List.map_cons, List.sum_cons]; rfl

theorem length_filter_eq_sum {α : Type} (p : α → Bool) (l : List α) :
    (l.filter p).length = (l.map fun x => if p x then 1 else 0).sum := by
  induction l with
  | nil => rfl
  | cons x l ih => cases h : p x <;> simp [h, ih, Nat.add_comm]

theorem popcount6_eq_sum (v : BitVec 6) :
    popcount6 v = (allButtons.map fun b => if v.getLsbD (buttonIndex b) then 1 else 0).sum :=
  (popcount6_eq_buttons v).trans (length_filter_eq_sum _ _)

theorem pressesOf_cons {b : Button} {w : Word} {ws : List Word} {s u : State} (h : step (present w s) = .next u) :
    pressesOf b (w :: ws) s = (if u.out.pressEv.getLsbD (buttonIndex b) then 1 else 0) + pressesOf b ws u := by
  rw [pressesOf, outputsOf_cons h, List.filter_cons]
  split
  next => rw [List.length_cons, Nat.add_comm]; rfl
  next => rw [Nat.zero_add]; rfl

theorem pressesOf_append {b : Button} {ws vs : List Word} {s t : State} (h : runWords ws s = .next t) :
    pressesOf b (ws ++ vs) s = pressesOf b ws s + pressesOf b vs t := by
  rw [pressesOf, outputsOf_append h, List.filter_append, List.length_append]; rfl

/-- A run whose last step has a press event has at least that one. -/
theorem one_le_pressesOf_concat {b : Button} {ws : List Word} {w : Word} {s t u : State}
    (h : runWords ws s = .next t) (hw : step (present w t) = .next u)
    (hPress : u.out.pressEv.getLsbD (buttonIndex b) = true) : 1 ≤ pressesOf b (ws ++ [w]) s := by
  rw [pressesOf_append h, pressesOf_cons hw, if_pos hPress]
  omega

/-- The press events of all buttons, button by button. -/
theorem pressTotal_eq_sum {ws : List Word} {s t : State} (h : runWords ws s = .next t) :
    pressTotal ws s = (allButtons.map fun b => pressesOf b ws s).sum := by
  induction ws generalizing s with
  | nil => rfl
  | cons w ws ih =>
    obtain ⟨u, hu, hrest⟩ := runWords_cons_next h
    simp only [pressTotal_cons hu, pressesOf_cons hu, List.sum_map_add, ih hrest, popcount6_eq_sum]

end Sys2Proof.Machine
end

section
/-! PROOFS. The debounce of one button along a run (40_debounce_tick.md, 3. Derived properties). A run without RST takes
the history and state of a button through its samples (`run_lane`), so each property is one of `LaneState` and a list
of samples. The key fact is `changes_bound`: eight samples stand between two changes of state. -/

namespace Sys2Proof.Machine

/-! ### The history and the state of one button -/

/-- HIST[b] and ST[b] of one button. -/
structure LaneState where
  hist : Byte
  st   : LogicalState

/-- The lane of button b among the engine's registers. -/
def laneOf (e : Engine) (b : Button) : LaneState := ⟨e.hist.get b, e.st.get b⟩

/-- The lane after a tick with the sample `v`. -/
def LaneState.tick (x : LaneState) (v : Bool) : LaneState := ⟨shiftIn x.hist v, nextLogical (shiftIn x.hist v) x.st⟩

/-- The lane after ticks with the samples `vs`, oldest first. -/
def LaneState.run (x : LaneState) (vs : List Bool) : LaneState := vs.foldl LaneState.tick x

/-- How many of those ticks have a press event. -/
def LaneState.presses (x : LaneState) : List Bool → Nat
  | [] => 0
  | v :: vs => (if isPress (shiftIn x.hist v) x.st then 1 else 0) + (x.tick v).presses vs

/-- How many of those ticks change the state. -/
def LaneState.changes (x : LaneState) : List Bool → Nat
  | [] => 0
  | v :: vs => (if (x.tick v).st = x.st then 0 else 1) + (x.tick v).changes vs

theorem laneOf_tickEngine (pol : PerButton Polarity) (r : RawLevels) (e : Engine) (b : Button) :
    laneOf (tickEngine pol r e) b = (laneOf e b).tick (sample pol r b) := by
  rw [laneOf, tickEngine_hist, tickEngine_st, tickHist_get, tickSt_get]; rfl

theorem laneOf_reset (b : Button) : laneOf Engine.reset b = ⟨0x00#8, .up⟩ := by
  rw [laneOf, reset_hist_get, reset_st_get]

theorem run_concat (x : LaneState) (vs : List Bool) (v : Bool) : x.run (vs ++ [v]) = (x.run vs).tick v :=
  List.foldl_concat _ _ _ _

/-! ### The lanes of a run -/

theorem samplesOf_cons_of_not_tick {w : Word} (hTick : tickOf w = none) (pol : PerButton Polarity) (b : Button)
    (ws : List Word) : samplesOf pol b (w :: ws) = samplesOf pol b ws := by
  rw [samplesOf, ticksOf_cons_of_not_tick hTick]; rfl

theorem samplesOf_cons_of_tick {w : Word} {r : RawLevels} (hTick : tickOf w = some r) (pol : PerButton Polarity)
    (b : Button) (ws : List Word) : samplesOf pol b (w :: ws) = sample pol r b :: samplesOf pol b ws := by
  rw [samplesOf, ticksOf_cons_of_tick hTick]; rfl

theorem run_lane {ws : List Word} {s t : State} (hNoReset : NoReset ws) (h : runWords ws s = .next t) (b : Button) :
    laneOf t.eng b = (laneOf s.eng b).run (samplesOf s.cfg.pol b ws) := by
  induction ws generalizing s with
  | nil =>
    obtain rfl : s = t := by simpa using h
    rfl
  | cons w ws ih =>
    obtain ⟨u, hu, hrest⟩ := runWords_cons_next h
    obtain ⟨hw, hws⟩ := noReset_cons hNoReset
    rw [ih hws hrest, step_pol hu]
    cases hTick : tickOf w with
    | none => rw [step_of_not_tick hu hw hTick, samplesOf_cons_of_not_tick hTick]
    | some r =>
      rw [step_of_tick hu hTick, laneOf_tickEngine, samplesOf_cons_of_tick hTick]; rfl

theorem pressesOf_eq_presses {ws : List Word} {s t : State} (hNoReset : NoReset ws) (h : runWords ws s = .next t)
    (b : Button) : pressesOf b ws s = (laneOf s.eng b).presses (samplesOf s.cfg.pol b ws) := by
  induction ws generalizing s with
  | nil => rfl
  | cons w ws ih =>
    obtain ⟨u, hu, hrest⟩ := runWords_cons_next h
    obtain ⟨hw, hws⟩ := noReset_cons hNoReset
    rw [pressesOf_cons hu, ih hws hrest, step_pol hu]
    cases hTick : tickOf w with
    | none =>
      obtain ⟨hPress, -⟩ := step_events_of_not_tick hu hTick
      rw [step_of_not_tick hu hw hTick, samplesOf_cons_of_not_tick hTick, hPress, BitVec.getLsbD_zero]
      exact Nat.zero_add _
    | some r =>
      obtain ⟨hPress, -⟩ := step_events_of_tick hu hTick
      rw [step_of_tick hu hTick, laneOf_tickEngine, samplesOf_cons_of_tick hTick, hPress, tickPressEv_getLsbD]; rfl

/-! ### The history is the window of samples (rule R93) -/

/-- Bit k of the history is the sample k ticks before the newest, or, where there were not so many ticks, a bit of the
history from before the run. -/
theorem run_hist_getLsbD (x : LaneState) (vs : List Bool) {k : Nat} (hk : k < 8) :
    (x.run vs).hist.getLsbD k = vs.reverse.getD k (x.hist.getLsbD (k - vs.length)) := by
  induction vs using List.reverseRecOn generalizing k with
  | nil => rfl
  | append_singleton vs v ih =>
    rw [run_concat, List.reverse_concat, List.length_append]
    cases k with
    | zero => exact shiftIn_getLsbD_zero _ v
    | succ k =>
      rw [List.getD_cons_succ, LaneState.tick, shiftIn_getLsbD_succ _ _ _ (by omega), ih (by omega),
        List.length_singleton, Nat.add_sub_add_right]

/-- Settles O48: the reset history is all zeros, so it answers 0 for the samples that are missing. -/
theorem historyIsTheWindowOfSamples : Obligations.HistoryIsTheWindowOfSamples := by
  intro cfg ws t b k hNoReset h hk
  have hlane := run_lane hNoReset h b
  have hhist : t.eng.hist.get b = ((laneOf Engine.reset b).run (samplesOf cfg.pol b ws)).hist :=
    congrArg LaneState.hist hlane
  rw [hhist, run_hist_getLsbD _ _ hk, laneOf_reset, BitVec.getLsbD_zero]

/-! ### Changes of state -/

theorem bit_injective {st st' : LogicalState} (h : st.bit = st'.bit) : st = st' := by
  revert h
  cases st <;> cases st' <;> decide

/-- A state changes only on eight samples that agree with the new state (rules R85, R86). -/
theorem getLsbD_of_change {h : Byte} {st : LogicalState} (hne : nextLogical h st ≠ st) {k : Nat} (hk : k < 8) :
    h.getLsbD k = (nextLogical h st).bit := by
  have hones : ∀ k < 8, (0xFF#8).getLsbD k = true := by decide
  rw [nextLogical_eq] at hne ⊢
  by_cases hFF : h = 0xFF#8
  · rw [if_pos hFF, hFF, hones k hk]; rfl
  · by_cases h00 : h = 0x00#8
    · rw [if_neg hFF, if_pos h00, h00, BitVec.getLsbD_zero]; rfl
    · rw [if_neg hFF, if_neg h00] at hne
      exact absurd rfl hne

/-- From a history whose bit j agrees with the state, no change comes before tick 8 - j, and each later one at least
eight ticks after the one before. -/
theorem changes_bound (vs : List Bool) (x : LaneState) (j : Nat)
    (hagree : j < 8 → x.hist.getLsbD j = x.st.bit) : 8 * x.changes vs ≤ j + vs.length := by
  induction vs generalizing x j with
  | nil => exact Nat.zero_le _
  | cons v vs ih =>
    have hshift : j < 7 → (x.tick v).hist.getLsbD (j + 1) = x.st.bit := fun hj =>
      (shiftIn_getLsbD_succ _ _ _ hj).trans (hagree (by omega))
    rw [LaneState.changes, List.length_cons]
    by_cases hst : (x.tick v).st = x.st
    · have hrest := ih (x.tick v) (j + 1) fun hj => by rw [hst]; exact hshift (by omega)
      rw [if_pos hst]
      omega
    · have hbits : ∀ k < 8, (x.tick v).hist.getLsbD k = (x.tick v).st.bit := fun k hk => getLsbD_of_change hst hk
      have hj : 7 ≤ j := by
        by_contra hlt
        exact hst (bit_injective ((hbits (j + 1) (by omega)).symm.trans (hshift (by omega))))
      have hrest := ih (x.tick v) 0 fun _ => hbits 0 (by decide)
      rw [if_neg hst]
      omega

theorem run_st_of_changes_eq_zero (vs : List Bool) (x : LaneState) (h : x.changes vs = 0) : (x.run vs).st = x.st := by
  induction vs generalizing x with
  | nil => rfl
  | cons v vs ih =>
    rw [LaneState.changes] at h
    by_cases hst : (x.tick v).st = x.st
    · exact (ih (x.tick v) (by omega)).trans hst
    · rw [if_neg hst] at h
      omega

/-- A press is a change from Up, and no change to Up is a press. -/
theorem two_mul_press_le (h : Byte) (st : LogicalState) :
    2 * (if isPress h st then 1 else 0) + (if nextLogical h st = .up then 1 else 0) ≤
      (if nextLogical h st = st then 0 else 1) + if st = .up then 1 else 0 := by
  by_cases hp : h = 0xFF#8 ∧ st = .up
  · obtain ⟨rfl, rfl⟩ := hp
    decide
  · by_cases hr : h = 0x00#8 ∧ st = .down
    · obtain ⟨rfl, rfl⟩ := hr
      decide
    · obtain ⟨hst, hPress, -⟩ := lane_of_neither hp hr
      simp [hst, hPress]

/-- Between two press events lies a release, so presses are at most every second change. -/
theorem two_mul_presses_le (vs : List Bool) (x : LaneState) :
    2 * x.presses vs ≤ x.changes vs + if x.st = .up then 1 else 0 := by
  induction vs generalizing x with
  | nil => exact Nat.zero_le _
  | cons v vs ih =>
    have hrest := ih (x.tick v)
    have hfirst : 2 * (if isPress (shiftIn x.hist v) x.st then 1 else 0) + (if (x.tick v).st = .up then 1 else 0) ≤
        (if (x.tick v).st = x.st then 0 else 1) + if x.st = .up then 1 else 0 := two_mul_press_le _ _
    rw [LaneState.presses, LaneState.changes]
    omega

/-- While all samples are `v`, the only change is to the state of `v`. -/
theorem changes_le_of_held {v : Bool} (vs : List Bool) (hv : ∀ y ∈ vs, y = v) (x : LaneState) :
    x.changes vs ≤ if x.st.bit = v then 0 else 1 := by
  induction vs generalizing x with
  | nil => exact Nat.zero_le _
  | cons y vs ih =>
    obtain ⟨rfl, hvs⟩ := List.forall_mem_cons.mp hv
    have hrest := ih hvs (x.tick y)
    rw [LaneState.changes]
    by_cases hst : (x.tick y).st = x.st
    · rw [hst] at hrest
      rw [if_pos hst]
      omega
    · have hnew : (x.tick y).st.bit = y :=
        (getLsbD_of_change hst (by decide)).symm.trans (shiftIn_getLsbD_zero _ y)
      have hold : x.st.bit ≠ y := fun hc => hst (bit_injective (hnew.trans hc.symm))
      rw [if_pos hnew] at hrest
      rw [if_neg hst, if_neg hold]
      omega

/-! ### Runs in which the state changes -/

/-- From a newest sample that agrees with the state, a change takes eight ticks. -/
theorem eight_le_of_change {x : LaneState} {vs : List Bool} (hagree : x.hist.getLsbD 0 = x.st.bit)
    (hne : (x.run vs).st ≠ x.st) : 8 ≤ vs.length := by
  have hbound := changes_bound vs x 0 fun _ => hagree
  have hpos : x.changes vs ≠ 0 := fun h0 => hne (run_st_of_changes_eq_zero vs x h0)
  omega

theorem eight_ticks_of_change {ws : List Word} {s t : State} {b : Button} (hNoReset : NoReset ws)
    (h : runWords ws s = .next t) (hagree : (s.eng.hist.get b).getLsbD 0 = (s.eng.st.get b).bit)
    (hne : t.eng.st.get b ≠ s.eng.st.get b) : 8 ≤ (ticksOf ws).length := by
  have hst : t.eng.st.get b = ((laneOf s.eng b).run (samplesOf s.cfg.pol b ws)).st :=
    congrArg LaneState.st (run_lane hNoReset h b)
  rw [← length_samplesOf s.cfg.pol b]
  exact eight_le_of_change (x := laneOf s.eng b) hagree (hst ▸ hne)

/-- Settles O59: fewer than eight ticks from a newest sample that agrees with the state. -/
theorem shortExcursionsChangeNothing : Obligations.ShortExcursionsChangeNothing := by
  intro ws s t b hNoReset h hagree hshort
  rw [← logicalState_bit_eq] at hagree
  by_contra hne
  have height := eight_ticks_of_change hNoReset h hagree hne
  omega

/-! ### Transitions need eight equal samples (rule R94) -/

theorem getD_eq_getD {α : Type} {l : List α} {k : Nat} (hk : k < l.length) (d d' : α) : l.getD k d = l.getD k d' := by
  rw [List.getD_eq_getElem _ _ hk, List.getD_eq_getElem _ _ hk]

theorem tickOf_isSome_of_change {w : Word} {s t : State} {b : Button} (h : step (present w s) = .next t)
    (hw : resets w = false) (hne : t.eng.st.get b ≠ s.eng.st.get b) : (tickOf w).isSome := by
  cases hTick : tickOf w with
  | none => exact absurd (congrArg (fun e => e.st.get b) (step_of_not_tick h hw hTick)) hne
  | some r => rfl

/-- The history after a step that changes the state agrees with the new state in all its bits. -/
theorem getLsbD_hist_of_change {w : Word} {s t : State} {b : Button} (h : step (present w s) = .next t)
    (hw : resets w = false) (hne : t.eng.st.get b ≠ s.eng.st.get b) {k : Nat} (hk : k < 8) :
    (t.eng.hist.get b).getLsbD k = (t.eng.st.get b).bit := by
  obtain ⟨r, hTick⟩ := Option.isSome_iff_exists.mp (tickOf_isSome_of_change h hw hne)
  rw [step_of_tick h hTick, tickEngine_st, tickSt_get] at hne
  rw [step_of_tick h hTick, tickEngine_hist, tickHist_get, tickEngine_st, tickSt_get]
  exact getLsbD_of_change hne hk

/-- From reset a button is not Down before eight ticks have run. -/
theorem eight_ticks_of_down {cfg : Params} {ws : List Word} {t : State} {b : Button} (hNoReset : NoReset ws)
    (h : runWords ws (State.resetWith cfg) = .next t) (hdown : t.eng.st.get b = .down) : 8 ≤ (ticksOf ws).length := by
  refine eight_ticks_of_change (b := b) hNoReset h ?_ ?_
  · rw [resetWith_eng, reset_hist_get, reset_st_get]; rfl
  · rw [hdown, resetWith_eng, reset_st_get]; decide

/-- Both directions of rule R94: after a change of state the last eight samples agree with the new state. -/
theorem transition_needs_eight {cfg : Params} {ws : List Word} {w : Word} {s t : State} {b : Button}
    (hNoReset : NoReset (ws ++ [w])) (hs : runWords ws (State.resetWith cfg) = .next s)
    (ht : step (present w s) = .next t) (hne : t.eng.st.get b ≠ s.eng.st.get b) (d : Bool) :
    (tickOf w).isSome ∧ 8 ≤ (samplesOf cfg.pol b (ws ++ [w])).length ∧
      ∀ k < 8, (samplesOf cfg.pol b (ws ++ [w])).reverse.getD k d = (t.eng.st.get b).bit := by
  obtain ⟨hws, hw⟩ := noReset_append hNoReset
  have hwReset : resets w = false := hw w (List.mem_singleton_self w)
  have hrun := runWords_concat hs ht
  have hlength : 8 ≤ (samplesOf cfg.pol b (ws ++ [w])).length := by
    rw [length_samplesOf]
    cases hold : s.eng.st.get b with
    | down =>
      have := eight_ticks_of_down hws hs hold
      rw [length_ticksOf_append]
      omega
    | up =>
      refine eight_ticks_of_down (b := b) hNoReset hrun ?_
      cases hnew : t.eng.st.get b with
      | down => rfl
      | up => exact absurd (hnew.trans hold.symm) hne
  refine ⟨tickOf_isSome_of_change ht hwReset hne, hlength, fun k hk => ?_⟩
  have hk' : k < (samplesOf cfg.pol b (ws ++ [w])).reverse.length := by
    rw [List.length_reverse]; omega
  rw [getD_eq_getD hk' d false, ← historyIsTheWindowOfSamples cfg _ t b k hNoReset hrun hk]
  exact getLsbD_hist_of_change ht hwReset hne hk

/-- Settles O49: a press is a change to Down, a release a change to Up. -/
theorem transitionsNeedEightEqualSamples : Obligations.TransitionsNeedEightEqualSamples := by
  intro cfg ws w s t b hNoReset hs ht
  refine ⟨fun hold hnew => ?_, fun hold hnew => ?_⟩
  all_goals
    have hne : t.eng.st.get b ≠ s.eng.st.get b := by rw [hold, hnew]; decide
    have hall := transition_needs_eight hNoReset hs ht hne
    rw [hnew] at hall
    exact hall _

/-! ### How often a button presses (rules R95, R96) -/

/-- Settles O50: a held button changes its state at most once, and a second press would need two changes more. -/
theorem onePressPerHold : Obligations.OnePressPerHold := by
  intro ws s t b hNoReset h hheld
  have hpresses := two_mul_presses_le (samplesOf s.cfg.pol b ws) (laneOf s.eng b)
  have hchanges := changes_le_of_held _ hheld (laneOf s.eng b)
  rw [pressesOf_eq_presses hNoReset h]
  split_ifs at hpresses hchanges <;> omega

/-- A run from a newest sample that agrees with the state holds one press for every sixteen ticks, and one more if it
starts from Up and has had eight ticks. -/
theorem sixteen_mul_pressesOf_le {ws : List Word} {s t : State} {b : Button} (hNoReset : NoReset ws)
    (h : runWords ws s = .next t) (hagree : (s.eng.hist.get b).getLsbD 0 = (s.eng.st.get b).bit) :
    16 * pressesOf b ws s ≤ (ticksOf ws).length + if s.eng.st.get b = .up then 8 else 0 := by
  have hpresses := two_mul_presses_le (samplesOf s.cfg.pol b ws) (laneOf s.eng b)
  have hchanges := changes_bound (samplesOf s.cfg.pol b ws) (laneOf s.eng b) 0 fun _ => hagree
  have hst : (laneOf s.eng b).st = s.eng.st.get b := rfl
  rw [hst] at hpresses
  rw [length_samplesOf] at hchanges
  rw [pressesOf_eq_presses hNoReset h]
  split_ifs at hpresses ⊢ <;> omega

theorem lane_after_press {w : Word} {s t : State} {b : Button} (h : step (present w s) = .next t)
    (hPress : t.out.pressEv.getLsbD (buttonIndex b) = true) :
    t.eng.hist.get b = 0xFF#8 ∧ t.eng.st.get b = .down := by
  cases hTick : tickOf w with
  | none =>
    obtain ⟨hnone, -⟩ := step_events_of_not_tick h hTick
    rw [hnone, BitVec.getLsbD_zero] at hPress
    exact absurd hPress (by decide)
  | some r =>
    obtain ⟨hev, -⟩ := step_events_of_tick h hTick
    rw [hev, tickPressEv_getLsbD] at hPress
    obtain ⟨hhist, hold⟩ := isPress_eq_true.mp hPress
    obtain ⟨hst, -, -⟩ := lane_of_press ⟨hhist, hold⟩
    rw [step_of_tick h hTick, tickEngine_hist, tickEngine_st, tickHist_get, tickSt_get]
    exact ⟨hhist, hst⟩

theorem st_after_release {w : Word} {s t : State} {b : Button} (h : step (present w s) = .next t)
    (hRelease : t.out.releaseEv.getLsbD (buttonIndex b) = true) : t.eng.st.get b = .up := by
  cases hTick : tickOf w with
  | none =>
    obtain ⟨-, hnone⟩ := step_events_of_not_tick h hTick
    rw [hnone, BitVec.getLsbD_zero] at hRelease
    exact absurd hRelease (by decide)
  | some r =>
    obtain ⟨-, hev⟩ := step_events_of_tick h hTick
    rw [hev, tickReleaseEv_getLsbD] at hRelease
    obtain ⟨hst, -, -⟩ := lane_of_release (isRelease_eq_true.mp hRelease)
    rw [step_of_tick h hTick, tickEngine_st, tickSt_get, hst]

/-- Settles O51: after a press the button is Down on a history of ones, so the next press ends a run of at least
sixteen ticks, and a release, which is a change, one of at least eight. -/
theorem pressEventsLieSixteenTicksApart : Obligations.PressEventsLieSixteenTicksApart := by
  intro b s0 s1 s2 s3 w0 w ws hNoReset h0 hPress h1 h2
  obtain ⟨hhist, hdown⟩ := lane_after_press h0 hPress
  have hagree : (s1.eng.hist.get b).getLsbD 0 = (s1.eng.st.get b).bit := by
    rw [hhist, hdown]; decide
  have hrun := runWords_concat h1 h2
  refine ⟨fun hagain => ?_, fun hRelease => ?_⟩
  · have hone := one_le_pressesOf_concat h1 h2 hagain
    have hbound := sixteen_mul_pressesOf_le hNoReset hrun hagree
    rw [hdown, if_neg (by decide)] at hbound
    omega
  · refine eight_ticks_of_change hNoReset hrun hagree ?_
    rw [st_after_release h2 hRelease, hdown]
    decide

/-- Settles O52: from reset every button is Up on a history of zeros; the presses of all buttons are those of each. -/
theorem pressRateFromResetIsBounded : Obligations.PressRateFromResetIsBounded := by
  intro cfg ws t hNoReset h
  have heach (b : Button) : pressesOf b ws (State.resetWith cfg) ≤ ((ticksOf ws).length + 8) / 16 := by
    have hagree : ((State.resetWith cfg).eng.hist.get b).getLsbD 0 = ((State.resetWith cfg).eng.st.get b).bit := by
      rw [resetWith_eng, reset_hist_get, reset_st_get]; rfl
    have hbound := sixteen_mul_pressesOf_le hNoReset h hagree
    rw [resetWith_eng, reset_st_get, if_pos rfl] at hbound
    omega
  refine ⟨heach, ?_⟩
  rw [pressTotal_eq_sum h]
  exact List.sum_le_card_nsmul _ _ (List.forall_mem_map.mpr fun b _ => heach b)

/-! ### Eight equal samples settle the state (rule R157) -/

theorem bit_eq_iff (st : LogicalState) (v : Bool) : st.bit = v ↔ st = if v then .down else .up := by
  cases st <;> cases v <;> decide

/-- A tick that leaves eight equal samples leaves the state that agrees with them. -/
theorem tick_st_of_equal_samples {x : LaneState} {v y : Bool} (h : ∀ k < 8, (x.tick y).hist.getLsbD k = v) :
    (x.tick y).st.bit = v := by
  by_cases hst : (x.tick y).st = x.st
  · obtain ⟨hones, hzeros⟩ := nextLogical_settles (x.tick y).hist x.st
    cases v with
    | true =>
      have hFF : (x.tick y).hist = 0xFF#8 := BitVec.eq_of_getLsbD_eq fun k hk => by
        rw [h k hk]; revert k; decide
      exact congrArg LogicalState.bit (hones hFF)
    | false =>
      have h00 : (x.tick y).hist = 0x00#8 := BitVec.eq_of_getLsbD_eq fun k hk => by
        rw [h k hk, BitVec.getLsbD_zero]
      exact congrArg LogicalState.bit (hzeros h00)
  · exact (getLsbD_of_change hst (by decide)).symm.trans (h 0 (by decide))

theorem run_st_of_held {v : Bool} {vs : List Bool} (hv : ∀ y ∈ vs, y = v) (hlength : 8 ≤ vs.length) (x : LaneState) :
    (x.run vs).st.bit = v := by
  have hbits : ∀ k < 8, (x.run vs).hist.getLsbD k = v := fun k hk => by
    have hk' : k < vs.reverse.length := by rw [List.length_reverse]; omega
    rw [run_hist_getLsbD x vs hk, List.getD_eq_getElem _ _ hk']
    exact hv _ (List.mem_reverse.mp (List.getElem_mem hk'))
  obtain ⟨ys, y, rfl⟩ : ∃ ys y, vs = ys ++ [y] := by
    obtain h | h := List.eq_nil_or_concat' vs
    · rw [h] at hlength
      exact absurd hlength (by decide)
    · exact h
  rw [run_concat] at hbits ⊢
  exact tick_st_of_equal_samples hbits

/-- Settles O60: eight ticks of `v` fill the history with `v`; and from a newest sample that agrees with the old state,
fewer than eight ticks change nothing. -/
theorem eightEqualSamplesSettleTheState : Obligations.EightEqualSamplesSettleTheState := by
  intro ws s t b v hNoReset h hheld
  have hsettled : 8 ≤ (ticksOf ws).length → t.eng.st.get b = if v then .down else .up := fun hlength => by
    rw [← bit_eq_iff]
    rw [← length_samplesOf s.cfg.pol b] at hlength
    have hst : t.eng.st.get b = ((laneOf s.eng b).run (samplesOf s.cfg.pol b ws)).st :=
      congrArg LaneState.st (run_lane hNoReset h b)
    rw [hst]
    exact run_st_of_held hheld hlength _
  refine ⟨hsettled, fun hnewest hold => ⟨fun hnew => ?_, hsettled⟩⟩
  refine eight_ticks_of_change (b := b) hNoReset h ?_ ?_
  · rw [hnewest, hold]; cases v <;> rfl
  · rw [hnew, hold]; cases v <;> decide

end Sys2Proof.Machine
end

section
/-! PROOFS. The counters along a run (rules R97, R106, R151), and the snapshot between latches (rules R50, R111). -/

namespace Sys2Proof.Machine

/-! ### COUNT and PUB.SEQ along a run -/

theorem run_count {ws : List Word} {s t : State} (hNoReset : NoReset ws) (h : runWords ws s = .next t) :
    t.eng.count = s.eng.count + BitVec.ofNat 16 (pressTotal ws s) := by
  induction ws generalizing s with
  | nil =>
    obtain rfl : s = t := by simpa using h
    exact (BitVec.add_zero _).symm
  | cons w ws ih =>
    obtain ⟨u, hu, hrest⟩ := runWords_cons_next h
    obtain ⟨hw, hws⟩ := noReset_cons hNoReset
    have hstep : u.eng.count = s.eng.count + BitVec.ofNat 16 (popcount6 u.out.pressEv) := by
      cases hTick : tickOf w with
      | none =>
        obtain ⟨hPress, -⟩ := step_events_of_not_tick hu hTick
        rw [step_of_not_tick hu hw hTick, hPress]
        exact (BitVec.add_zero _).symm
      | some r =>
        obtain ⟨hPress, -⟩ := step_events_of_tick hu hTick
        rw [step_of_tick hu hTick, hPress, tickEngine_count, tickCount]
    rw [ih hws hrest, hstep, pressTotal_cons hu, BitVec.ofNat_add, BitVec.add_assoc]

theorem run_seq {ws : List Word} {s t : State} (hNoReset : NoReset ws) (h : runWords ws s = .next t) :
    t.eng.pub.seq = s.eng.pub.seq + BitVec.ofNat 8 (ticksOf ws).length := by
  induction ws generalizing s with
  | nil =>
    obtain rfl : s = t := by simpa using h
    exact (BitVec.add_zero _).symm
  | cons w ws ih =>
    obtain ⟨u, hu, hrest⟩ := runWords_cons_next h
    obtain ⟨hw, hws⟩ := noReset_cons hNoReset
    rw [ih hws hrest]
    cases hTick : tickOf w with
    | none => rw [step_of_not_tick hu hw hTick, ticksOf_cons_of_not_tick hTick]
    | some r =>
      rw [step_of_tick hu hTick, ticksOf_cons_of_tick hTick, tickEngine_pub_seq, List.length_cons, Nat.add_comm,
        BitVec.ofNat_add, BitVec.add_assoc]

theorem toNat_sub_of_eq_add {w n : Nat} {x y : BitVec w} (h : y = x + BitVec.ofNat w n) :
    (y - x).toNat = n % 2 ^ w := by
  rw [h, BitVec.add_comm, BitVec.add_sub_cancel, BitVec.toNat_ofNat]

theorem step_eng_of_resets {w : Word} {s t : State} (h : step (present w s) = .next t) (hw : resets w = true) :
    t.eng = Engine.reset := by
  rw [step_eng h, if_pos hw]

/-- Settles O53: both counters add up their events along the run, from the start of the run or from 0. -/
theorem countersCountTheirEvents : Obligations.CountersCountTheirEvents := by
  refine ⟨fun ws s t hNoReset h => ?_, fun s t0 t w ws hw h0 hNoReset h => ?_⟩
  · have hcount := toNat_sub_of_eq_add (run_count hNoReset h)
    exact ⟨hcount, fun hlt => hcount.trans (Nat.mod_eq_of_lt hlt), toNat_sub_of_eq_add (run_seq hNoReset h)⟩
  · have hreset := step_eng_of_resets h0 hw
    have hcount := run_count hNoReset h
    have hseq := run_seq hNoReset h
    rw [hreset, reset_count, BitVec.zero_add] at hcount
    rw [hreset, reset_pub, snapshot_reset_seq, BitVec.zero_add] at hseq
    rw [hcount, hseq, BitVec.toNat_ofNat, BitVec.toNat_ofNat]
    exact ⟨rfl, rfl⟩

/-! ### Two latches (rule R106) -/

/-- A read answers one next state, `readStep` at its offset. -/
theorem eq_readStep_of_exec {i : Instr} {a : Offset} {s t : State} (hi : Operation.ofInstr i = .rd a)
    (h : exec i s = .next t) : t = readStep a s := by
  rw [exec_of_rd hi] at h
  exact (Host.Outcome.next.inj h).symm

/-- Settles O54: each latch answers PUB.SEQ, which between them counts the ticks. -/
theorem sequenceNumberCountsTicksBetweenLatches : Obligations.SequenceNumberCountsTicksBetweenLatches := by
  intro s s1 s2 ws hNoReset h1 h2
  obtain rfl := eq_readStep_of_exec rfl h1
  have hseq : s2.eng.pub.seq = s.eng.pub.seq + BitVec.ofNat 8 (ticksOf ws).length :=
    run_seq (s := readStep 0x10#6 s) hNoReset h2
  have hdiff := toNat_sub_of_eq_add hseq
  exact ⟨readStep 0x10#6 s2, exec_of_rd rfl s2, hdiff, fun hle =>
    hdiff.trans (Nat.mod_eq_of_lt (Nat.lt_succ_of_le hle))⟩

/-! ### The double read (rule R151) -/

/-- A counter that moves by at most 65280 and comes back to its high byte has not left it: to leave it and come back it
would have to move by more than 65536 - 256. -/
theorem highByte_held {c p q : Nat} (hc : c < 65536) (hpq : p + q ≤ 65280)
    (hback : ((c + p) % 65536 + q) % 65536 / 256 = c / 256) : (c + p) % 65536 / 256 = c / 256 := by
  omega

theorem highByte_eq_iff (c d : BitVec 16) : c.extractLsb' 8 8 = d.extractLsb' 8 8 ↔ c.toNat / 256 = d.toNat / 256 := by
  rw [← BitVec.toNat_inj, extractLsb'_high_toNat, extractLsb'_high_toNat]

/-- Settles O58: the high byte was the same when the low byte was read, so the two bytes are halves of one COUNT. -/
theorem doubleReadReturnsAHeldCount : Obligations.DoubleReadReturnsAHeldCount := by
  intro s0 s1 s2 s3 s4 s5 ws vs hws hvs h1 h2 h3 h4 h5 htotal hagree
  obtain rfl := eq_readStep_of_exec rfl h1
  obtain rfl := eq_readStep_of_exec rfl h3
  obtain rfl := eq_readStep_of_exec rfl h5
  have hcount2 : s2.eng.count = s0.eng.count + BitVec.ofNat 16 (pressTotal ws (readStep 0x0B#6 s0)) :=
    run_count hws h2
  have hcount4 : s4.eng.count = s2.eng.count + BitVec.ofNat 16 (pressTotal vs (readStep 0x0A#6 s2)) :=
    run_count hvs h4
  have hsame : s0.eng.count.extractLsb' 8 8 = s4.eng.count.extractLsb' 8 8 := hagree
  have hheld : s2.eng.count.extractLsb' 8 8 = s0.eng.count.extractLsb' 8 8 := by
    rw [highByte_eq_iff] at hsame ⊢
    rw [hcount4, BitVec.toNat_add, BitVec.toNat_ofNat, Nat.add_mod_mod, hcount2, BitVec.toNat_add, BitVec.toNat_ofNat,
      Nat.add_mod_mod] at hsame
    rw [hcount2, BitVec.toNat_add, BitVec.toNat_ofNat, Nat.add_mod_mod]
    exact highByte_held s0.eng.count.isLt htotal hsame.symm
  have hbytes := assemble_high_low s2.eng.count
  rw [hheld] at hbytes
  exact hbytes

/-! ### The torn pair (rule R150) -/

/-- COUNT is 0x00FF and button 0, active-high, is one pressed sample from a press. -/
def beforeCarry : State :=
  { State.resetWith { pol := PerButton.ofFn fun _ => .activeHigh, indMode := .shared } with
    eng := { Engine.reset with hist := Engine.reset.hist.set .dpadLeft 0x7F#8, count := 0x00FF#16 } }

theorem beforeCarry_tick_count : (tickStep 0b000001#6 beforeCarry).eng.count = 0x0100#16 := by decide

/-- Settles O57: the tick from `beforeCarry` carries from the low byte into the high byte between the two reads. -/
theorem liveCountPairMayTear : Obligations.LiveCountPairMayTear := by
  refine ⟨beforeCarry, tickStep 0b000001#6 beforeCarry, 0b000001#6, exec_tick _ _, rfl, beforeCarry_tick_count,
    ⟨_, _, _, exec_of_rd rfl _, exec_tick _ _, exec_of_rd rfl _, ?_⟩,
    ⟨_, _, _, exec_of_rd rfl _, exec_tick _ _, exec_of_rd rfl _, ?_⟩⟩
  all_goals decide

/-! ### The snapshot between latches (rules R50, R111) -/

/-- LAT is written by RST and by a read of SNAP_SEQ only, so a run without either keeps it. -/
theorem run_lat {ws : List Word} {s t : State} (hNoReset : NoReset ws) (hNoLatch : NoLatch ws)
    (h : runWords ws s = .next t) : t.lat = s.lat := by
  refine runWords_keeps (P := fun w => resets w = false ∧ readOf w ≠ some 0x10#6) (Inv := fun u => u.lat = s.lat) ?_
    ws s t (fun w hw => ⟨hNoReset w hw, hNoLatch w hw⟩) h rfl
  rintro w u v ⟨hReset, hRead⟩ hstep hu
  rw [step_lat hstep, hReset, if_neg Bool.false_ne_true, if_neg hRead, hu]

/-- The three snapshot reads show LAT. -/
theorem exec_snapshot_reads (s : State) :
    ∃ u lo hi, exec .rdSnapState s = .next u ∧ exec .rdSnapCountLo s = .next lo ∧ exec .rdSnapCountHi s = .next hi ∧
      u.out.rdata = s.lat.state.setWidth 8 ∧ lo.out.rdata = s.lat.count.extractLsb' 0 8 ∧
      hi.out.rdata = s.lat.count.extractLsb' 8 8 :=
  ⟨readStep 0x11#6 s, readStep 0x12#6 s, readStep 0x13#6 s, exec_of_rd rfl s, exec_of_rd rfl s, exec_of_rd rfl s,
    rfl, rfl, rfl⟩

/-- Settles O55: LAT is the PUB of the moment of the latch, and a coherent PUB shows the states and the count. -/
theorem snapshotHoldsUntilTheNextLatch : Obligations.SnapshotHoldsUntilTheNextLatch := by
  rintro s s1 s2 ws ⟨hState, hCount⟩ hNoReset hNoLatch h1 h2
  obtain rfl := eq_readStep_of_exec rfl h1
  have hlat : s2.lat = s.eng.pub := run_lat hNoReset hNoLatch h2
  obtain ⟨u, lo, hi, hu, hlo, hhi, huByte, hloByte, hhiByte⟩ := exec_snapshot_reads s2
  refine ⟨u, lo, hi, hu, hlo, hhi, ?_, ?_⟩
  · rw [huByte, hlat, hState]
  · rw [hloByte, hhiByte, assemble_high_low, hlat, hCount]

/-- Settles O56: LAT is still that of reset, whose bytes are all 0. -/
theorem snapshotReadsZeroBeforeTheFirstLatch : Obligations.SnapshotReadsZeroBeforeTheFirstLatch := by
  intro s s1 s2 w ws hReset h1 hNoReset hNoLatch h2
  have hlat : s2.lat = Snapshot.reset := by
    rw [run_lat hNoReset hNoLatch h2, step_lat h1, if_pos hReset]
  obtain ⟨u, lo, hi, hu, hlo, hhi, huByte, hloByte, hhiByte⟩ := exec_snapshot_reads s2
  refine ⟨u, lo, hi, hu, hlo, hhi, ?_, ?_, ?_⟩
  · rw [huByte, hlat]; rfl
  · rw [hloByte, hlat]; rfl
  · rw [hhiByte, hlat]; rfl

end Sys2Proof.Machine
end
